-- ==== Sys2Proof/Word.lean ====
section
/-! DEFINITION. The word types of the block (`00_scope.md` R6, R7, R8). -/

namespace Sys2Proof

/-- A 32-bit configuration word (CFG_DW, R6). -/
abbrev Word := BitVec 32

/-- A packed byte (BYTE_W, R6). -/
abbrev Byte := BitVec 8

/-- A symbol, one 8-bit code unit, compared as an unsigned code point (SYM_W, R6, R7). -/
abbrev Sym := BitVec 8

/-- A node index (IDX_W, R6). -/
abbrev Idx := BitVec 9

/-- A configuration word address (CFG_AW, R6). -/
abbrev Addr := BitVec 16

/-- A bit-string, in the order it is emitted, first bit first (R8). It is not a number. -/
abbrev Bits := List Bool

end Sys2Proof
end

