-- ==== Sys2Proof/Config.lean ====
section
/-! DEFINITION. What an implementation fixes: the parameters of `00_scope.md` R6 and the open ones of `20_memory.md` R75.
The spec has no source of an unpredictable value (`93_implementation_defined.md`, end of part 1), so there is no free value. -/

namespace Sys2Proof.Config

/-- NSYM, the number of symbol code points (R6). -/
def nsym : Nat := 256

/-- MAXLEN, the longest code the LUT can hold, in bits (R6). -/
def maxLen : Nat := 255

/-- NNODES, the number of node-table entries (R6). -/
def nnodes : Nat := 512

/-- LUT_WORDS, the words stored per LUT entry: one header and eight code words (R6). -/
def lutWords : Nat := 9

/-- The open parameters: OBUF_CAP and DBUF_CAP (R75; `none` is unbounded) and the switch EMPTY_IS_OK
(`93_implementation_defined.md` U1). -/
structure Params where
  obufCap : Option Nat
  dbufCap : Option Nat
  emptyIsOk : Bool
  deriving DecidableEq, Repr

/-- The values the spec gives as a model's defaults: both capacities unbounded (R75, D15), EMPTY_IS_OK false (U1, D18).
Log entries 5 and 6. -/
def params : Params := { obufCap := none, dbufCap := none, emptyIsOk := false }

end Sys2Proof.Config
end

