-- ==== Sys2Proof/Syntax.lean ====
section
/-! DEFINITION. The operations of the block, one constructor per row of the operation map (`30_encoding.md` R105). -/

namespace Sys2Proof

/-- The operations of R105. A field the rules call ignored is kept, so that a token is recovered whole from its operation. -/
inductive Instr where
  /-- RESET: the event (R260). -/
  | reset
  /-- ENC.SYM s: ENC_IN token with bit 8 = 0 (R91, R183). -/
  | encSym (s : Sym)
  /-- ENC.EOM: ENC_IN token with bit 8 = 1; bits 7:0 ignored (R91, R186). -/
  | encEom (ign : BitVec 8)
  /-- DEC.BYTE b: DEC_IN token with bit 8 = 0 (R92, R203). -/
  | decByte (b : Byte)
  /-- DEC.END: DEC_IN token with bit 8 = 1; bits 7:0 ignored (R92, R208). -/
  | decEnd (ign : BitVec 8)
  /-- CFG.WR.CTRL: write to 0x0000 (R162). -/
  | cfgWrCtrl (d : Word)
  /-- CFG.WR.STATUS: write to 0x0001 (R163). -/
  | cfgWrStatus (d : Word)
  /-- CFG.WR.SENT: write to 0x0002 (R164). -/
  | cfgWrSent (d : Word)
  /-- CFG.WR.ROOT: write to 0x0003 (R165). -/
  | cfgWrRoot (d : Word)
  /-- CFG.WR.LUT.K0_7: write of word k in 0..7 of entry s (R166). -/
  | cfgWrLutK07 (s : Sym) (k : BitVec 3) (d : Word)
  /-- CFG.WR.LUT.K8: write of word 8 of entry s (R166). -/
  | cfgWrLutK8 (s : Sym) (d : Word)
  /-- CFG.WR.LUTRSV: write of word k in 9..15 of entry s (R167). -/
  | cfgWrLutRsv (s : Sym) (k : BitVec 4) (d : Word)
  /-- CFG.WR.NODE: write of node i (R168). -/
  | cfgWrNode (i : Idx) (d : Word)
  /-- CFG.WR.UNMAPPED: write to an address no other row names (R169). -/
  | cfgWrUnmapped (a : Addr) (d : Word)
  /-- CFG.RD: read of address a; WDATA ignored (R170). -/
  | cfgRd (a : Addr) (ign : Word)
  deriving DecidableEq, Repr

end Sys2Proof
end

