-- ==== Sys2Proof/WellFormed.lean ====
section
/-! DEFINITION. Which terms of `Instr` stand for a token: the operand ranges of `41_config_ops.md` R167 and R169. -/

namespace Sys2Proof

/-- The unmapped addresses as R169 and the address map R61 give them: 0x0004 to 0x0FFF and 0x2200 to 0xFFFF. -/
def unmappedAddr (a : Addr) : Bool :=
  (0x0004 ≤ a.toNat && a.toNat ≤ 0x0FFF) || 0x2200 ≤ a.toNat

/-- Only two constructors have operands a token cannot carry: CFG.WR.LUTRSV with k below 9 (R167) and CFG.WR.UNMAPPED with a
mapped address (R169). -/
def WellFormed : Instr → Bool
  | .reset => true
  | .encSym _ => true
  | .encEom _ => true
  | .decByte _ => true
  | .decEnd _ => true
  | .cfgWrCtrl _ => true
  | .cfgWrStatus _ => true
  | .cfgWrSent _ => true
  | .cfgWrRoot _ => true
  | .cfgWrLutK07 _ _ _ => true
  | .cfgWrLutK8 _ _ => true
  | .cfgWrLutRsv _ k _ => 9 ≤ k.toNat
  | .cfgWrNode _ _ => true
  | .cfgWrUnmapped a _ => unmappedAddr a
  | .cfgRd _ _ => true

end Sys2Proof
end

