-- ==== Sys2Proof/Decode.lean ====
section
/-! DEFINITION. Tokens, the decoder, then the encoder (`30_encoding.md` R90 to R93, R104, R105). The block has no instruction
stream: what it decodes is the token at the head of a port, so a token carries its port. -/

namespace Sys2Proof

/-- One item on an input port, or the RESET event (R90, R105). -/
inductive Token where
  | reset
  | encIn (w : BitVec 9)
  | decIn (w : BitVec 9)
  | cfg (w : BitVec 49)
  deriving DecidableEq, Repr

/-- The CFG command word: WE in bit 48, ADDR in bits 47:32, WDATA in bits 31:0 (R93). -/
def cfgWord (we : Bool) (a : Addr) (d : Word) : BitVec 49 := BitVec.ofBool we ++ a ++ d

/-- WE, bit 48 (R93). -/
def cfgWe (w : BitVec 49) : Bool := w.getLsbD 48

/-- ADDR, bits 47:32 (R93). -/
def cfgAddr (w : BitVec 49) : Addr := w.extractLsb' 32 16

/-- WDATA, bits 31:0 (R93). -/
def cfgData (w : BitVec 49) : Word := w.extractLsb' 0 32

/-- ENC_IN: bit 8 is EOM, bits 7:0 are S (R91). -/
def decodeEncIn (w : BitVec 9) : Instr :=
  if w.getLsbD 8 then .encEom (w.extractLsb' 0 8) else .encSym (w.extractLsb' 0 8)

/-- DEC_IN: bit 8 is END, bits 7:0 are B (R92). -/
def decodeDecIn (w : BitVec 9) : Instr :=
  if w.getLsbD 8 then .decEnd (w.extractLsb' 0 8) else .decByte (w.extractLsb' 0 8)

/-- A write, by address, in the order of the rows of R105: where two rows could match, the earlier wins. -/
def decodeWrite (a : Addr) (d : Word) : Instr :=
  if a = 0x0000#16 then .cfgWrCtrl d
  else if a = 0x0001#16 then .cfgWrStatus d
  else if a = 0x0002#16 then .cfgWrSent d
  else if a = 0x0003#16 then .cfgWrRoot d
  else if a.extractLsb' 12 4 = 0x1#4 then
    if a.getLsbD 3 = false then .cfgWrLutK07 (a.extractLsb' 4 8) (a.extractLsb' 0 3) d
    else if a.extractLsb' 0 4 = 8#4 then .cfgWrLutK8 (a.extractLsb' 4 8) d
    else .cfgWrLutRsv (a.extractLsb' 4 8) (a.extractLsb' 0 4) d
  else if a.extractLsb' 9 7 = 0b0010000#7 then .cfgWrNode (a.extractLsb' 0 9) d
  else .cfgWrUnmapped a d

/-- A CFG command: WE selects a read or a write (R93, R105). -/
def decodeCfg (w : BitVec 49) : Instr :=
  if cfgWe w then decodeWrite (cfgAddr w) (cfgData w) else .cfgRd (cfgAddr w) (cfgData w)

/-- The decoder. It is total: "every bit pattern on every input port is a legal token" (R104). -/
def decode : Token → Instr
  | .reset => .reset
  | .encIn w => decodeEncIn w
  | .decIn w => decodeDecIn w
  | .cfg w => decodeCfg w

/-- Why a number is no token: it has more bits than the tokens of that port (R90). Nothing else is rejected (R104). -/
inductive NotAToken where
  /-- RESET is an event and has no bits. -/
  | resetHasNoBits
  /-- More than 9 bits offered to ENC_IN. -/
  | encInTooWide
  /-- More than 9 bits offered to DEC_IN. -/
  | decInTooWide
  /-- More than 49 bits offered to CFG. -/
  | cfgTooWide
  deriving DecidableEq, Repr

/-- A number offered to the RESET line: only "no bits" is the event. -/
def resetToken (w : Nat) : Except NotAToken Token := if w = 0 then .ok .reset else .error .resetHasNoBits

/-- A number offered to ENC_IN. -/
def encInToken (w : Nat) : Except NotAToken Token :=
  if w < 2 ^ 9 then .ok (.encIn (BitVec.ofNat 9 w)) else .error .encInTooWide

/-- A number offered to DEC_IN. -/
def decInToken (w : Nat) : Except NotAToken Token :=
  if w < 2 ^ 9 then .ok (.decIn (BitVec.ofNat 9 w)) else .error .decInTooWide

/-- A number offered to CFG. -/
def cfgToken (w : Nat) : Except NotAToken Token :=
  if w < 2 ^ 49 then .ok (.cfg (BitVec.ofNat 49 w)) else .error .cfgTooWide

/-- The token a row of the operation map stands for when only its width in bits is known: no bits is RESET, up to 16 bits is an
ENC_IN token, more is a CFG command. DESIGN CHOICE: a DEC_IN token has the same width and the same bits as an ENC_IN token, and
the earlier row of R105 wins (log entry 9). -/
def tableToken (nbits w : Nat) : Except NotAToken Token :=
  if nbits = 0 then resetToken w else if nbits ≤ 16 then encInToken w else cfgToken w

/-- The operation the decoder reads from a row's bits (log entry 9). -/
def decodeTableWord (nbits w : Nat) : Option Instr :=
  match tableToken nbits w with
  | .ok t => some (decode t)
  | .error _ => none

/-! ## The encoder, from the same tables (R91 to R93, R105, R106) -/

/-- The address of LUTW[s][k]: 0x1000 + 16 s + k, that is bits 15:12 = 0x1, 11:4 = s, 3:0 = k (R61). -/
def lutAddrWord (s : Sym) (k : BitVec 4) : Addr := 0x1#4 ++ s ++ k

/-- The address of NODE[i]: 0x2000 + i, that is bits 15:9 = 0b0010000, 8:0 = i (R61). -/
def nodeAddrWord (i : Idx) : Addr := 0b0010000#7 ++ i

/-- The token of an operation. -/
def encode : Instr → Token
  | .reset => .reset
  | .encSym s => .encIn (0#1 ++ s)
  | .encEom ign => .encIn (1#1 ++ ign)
  | .decByte b => .decIn (0#1 ++ b)
  | .decEnd ign => .decIn (1#1 ++ ign)
  | .cfgWrCtrl d => .cfg (cfgWord true 0x0000#16 d)
  | .cfgWrStatus d => .cfg (cfgWord true 0x0001#16 d)
  | .cfgWrSent d => .cfg (cfgWord true 0x0002#16 d)
  | .cfgWrRoot d => .cfg (cfgWord true 0x0003#16 d)
  | .cfgWrLutK07 s k d => .cfg (cfgWord true (lutAddrWord s (0#1 ++ k)) d)
  | .cfgWrLutK8 s d => .cfg (cfgWord true (lutAddrWord s 8#4) d)
  | .cfgWrLutRsv s k d => .cfg (cfgWord true (lutAddrWord s k) d)
  | .cfgWrNode i d => .cfg (cfgWord true (nodeAddrWord i) d)
  | .cfgWrUnmapped a d => .cfg (cfgWord true a d)
  | .cfgRd a ign => .cfg (cfgWord false a ign)

/-- `WR addr, data` of the listing notation (R106). -/
def wr (a : Addr) (d : Word) : Instr := decode (.cfg (cfgWord true a d))

/-- `RD addr` of the listing notation (R106). -/
def rd (a : Addr) : Instr := decode (.cfg (cfgWord false a 0#32))

end Sys2Proof
end

