-- ==== Sys2Proof/Machine/State.lean ====
section
/-! DEFINITION. The state of the block (`10_state.md` R20), the environment's sequences beside it (R35, R44), and reset (R42). -/

namespace Sys2Proof.Machine

/-- MODE (R21). -/
inductive Mode where
  | config
  | run
  deriving DecidableEq, Repr

/-- EMODE (R31). -/
inductive EMode where
  | normal
  | drain
  deriving DecidableEq, Repr

/-- DMODE (R34); its 2-bit value 3 is never taken, so it has no name. -/
inductive DMode where
  | idle
  | walk
  | skip
  deriving DecidableEq, Repr

/-- The things that take steps (`00_scope.md` R12 (a) to (d)). -/
inductive Agent where
  | reset
  | cfg
  | enc
  | dec
  deriving DecidableEq, Repr

/-- An output token of ENC_OUT or DEC_OUT (`30_encoding.md` R95); its 16 bits are `OutToken.word`. -/
inductive OutToken where
  | data (x : BitVec 8)
  | endOk
  | endErr (cause : BitVec 4) (info : BitVec 8)
  deriving DecidableEq, Repr

/-- A table of the configuration space: cells (word address, 32-bit word), addresses strictly rising, no cell holding what an
unlisted address reads as, which is 0x00000000, the reset contents of R42 (log entry 4). -/
abbrev Table := List (Nat × Word)

/-- The state of the block: exactly the elements of R20. -/
structure Block where
  mode : Mode
  sent : Sym
  root : Idx
  lutw : Table
  node : Table
  unk : Bool
  trunc : Bool
  cfgerr : Bool
  acc : BitVec 8
  nb : BitVec 3
  obuf : List Byte
  emode : EMode
  cur : Idx
  dbuf : List Sym
  dmode : DMode
  deriving DecidableEq, Repr

/-- The block, the environment's sequences (R35, R44, R94) and the order of steps still to come (R69, log entry 1). -/
structure State where
  /-- The block's own state (R20). -/
  blk : Block
  /-- Tokens waiting on ENC_IN, oldest first (R44, R91). -/
  encIn : List (BitVec 9)
  /-- Tokens waiting on DEC_IN, oldest first (R44, R92). -/
  decIn : List (BitVec 9)
  /-- Commands waiting on CFG, oldest first (R44, R93). -/
  cfgIn : List (BitVec 49)
  /-- ENC_OUT, oldest first (R35). -/
  encOut : List OutToken
  /-- DEC_OUT, oldest first (R35). -/
  decOut : List OutToken
  /-- The responses to CFG reads, oldest first (R94). -/
  cfgOut : List Word
  /-- The model's own: which agent takes the next step, head first (R69; log entry 1). -/
  sched : List Agent
  deriving DecidableEq, Repr

/-- No step stops the machine with a fault: "failure: not an outcome of a step but a result of an operation ... it never leaves
the machine stuck" (R13). So nothing raises a fault (log entry 12). -/
inductive Fault
  deriving DecidableEq, Repr

/-- Why a step is refused (R13: "the spec gives the configuration no meaning"). -/
inductive Refusal where
  /-- Raised by exec for an operation without a meaning; no arm does. Safe. -/
  | notModelled (mnemonic : String)
  /-- Raised by a decoder step in RUN when WF_ROOT is false (`43_decoder_ops.md` R215). Safe. -/
  | rootNotWf
  /-- Raised by an encoder step whose pending output would exceed a finite OBUF_CAP (`20_memory.md` R75). Safe. -/
  | obufOverCap
  /-- Raised by a decoder step whose pending output would exceed a finite DBUF_CAP (`20_memory.md` R75). Safe. -/
  | dbufOverCap
  deriving DecidableEq, Repr

/-- Every state element at the value of the table of R42. -/
def Block.reset : Block where
  mode := .config
  sent := 0x00#8
  root := 0x000#9
  lutw := []
  node := []
  unk := false
  trunc := false
  cfgerr := false
  acc := 0x00#8
  nb := 0#3
  obuf := []
  emode := .normal
  cur := 0x000#9
  dbuf := []
  dmode := .idle

/-- The machine at power-on, which is a RESET (R260), with an environment that has presented and received nothing (log entry 11). -/
def State.reset : State where
  blk := Block.reset
  encIn := []
  decIn := []
  cfgIn := []
  encOut := []
  decOut := []
  cfgOut := []
  sched := []

end Sys2Proof.Machine
end

