-- ==== Sys2Proof/Machine/Ops.lean ====
section
/-! DEFINITION. The named operations over tables, block and environment; acceptance and holding of tokens; the failure
procedures R235 and R236 (what this block has in the place of taking an exception) and the return R237. -/

namespace Sys2Proof.Machine

/-- The outcome of a step of this machine. -/
abbrev Result := Host.Outcome State Fault Refusal

/-! ## Tables (`10_state.md` R24, R26, R42; log entry 4) -/

/-- The word at an address; an unlisted address reads as 0x00000000 (R42). -/
def Table.read : Table → Nat → Word
  | [], _ => 0#32
  | (b, v) :: t, a => if a = b then v else Table.read t a

/-- Store a word, "all 32 bits" (R166, R168), keeping the canonical form. -/
def Table.write : Table → Nat → Word → Table
  | [], a, v => if v = 0#32 then [] else [(a, v)]
  | (b, w) :: t, a, v =>
    if a < b then (if v = 0#32 then (b, w) :: t else (a, v) :: (b, w) :: t)
    else if a = b then (if v = 0#32 then t else (a, v) :: t)
    else (b, w) :: Table.write t a v

/-- The canonical form: every address above the bound given and rising from there, no listed word zero. -/
def Table.wfAbove : Nat → Table → Bool
  | _, [] => true
  | lo, (a, v) :: t => decide (lo ≤ a) && v != 0#32 && Table.wfAbove (a + 1) t

/-- The canonical form of a table. -/
def Table.wf (t : Table) : Bool := Table.wfAbove 0 t

/-- Every listed address satisfies `p`. -/
def Table.within (p : Nat → Bool) (t : Table) : Bool := t.all fun c => p c.1

/-- The configuration address of LUTW[s][k]: 0x1000 + 16 s + k (R61). -/
def lutKey (s : Sym) (k : Nat) : Nat := 0x1000 + 16 * s.toNat + k

/-- The configuration address of NODE[i]: 0x2000 + i (R61). -/
def nodeKey (i : Idx) : Nat := 0x2000 + i.toNat

/-- The addresses of LUT words: 0x1000 + 16 s + k with s in 0..255 and k in 0..8 (R61). -/
def isLutKey (a : Nat) : Bool := decide (0x1000 ≤ a) && decide (a < 0x2000) && decide (a % 16 ≤ 8)

/-- The addresses of NODE words: 0x2000 to 0x21FF (R61). -/
def isNodeKey (a : Nat) : Bool := decide (0x2000 ≤ a) && decide (a < 0x2200)

/-! ## The block's assignments, one per state element (R9: `r <- v`) -/

def Block.setMode (k : Block) (v : Mode) : Block := { k with mode := v }
def Block.setSent (k : Block) (v : Sym) : Block := { k with sent := v }
def Block.setRoot (k : Block) (v : Idx) : Block := { k with root := v }
/-- LUTW[s][i] <- v. -/
def Block.setLutw (k : Block) (s : Sym) (i : Nat) (v : Word) : Block := { k with lutw := k.lutw.write (lutKey s i) v }
/-- NODE[i] <- v. -/
def Block.setNode (k : Block) (i : Idx) (v : Word) : Block := { k with node := k.node.write (nodeKey i) v }
/-- UNK <- 1: no step writes 0 to a flag (R27). -/
def Block.setUnk (k : Block) : Block := { k with unk := true }
/-- TRUNC <- 1 (R27). -/
def Block.setTrunc (k : Block) : Block := { k with trunc := true }
/-- CFGERR <- 1 (R27). -/
def Block.setCfgerr (k : Block) : Block := { k with cfgerr := true }
/-- ACC, NB and OBUF, which the packer writes together (R28, R29, R30). -/
def Block.setPacker (k : Block) (acc : BitVec 8) (nb : BitVec 3) (obuf : List Byte) : Block :=
  { k with acc := acc, nb := nb, obuf := obuf }
def Block.setEmode (k : Block) (v : EMode) : Block := { k with emode := v }
def Block.setCur (k : Block) (v : Idx) : Block := { k with cur := v }
def Block.setDbuf (k : Block) (v : List Sym) : Block := { k with dbuf := v }
def Block.setDmode (k : Block) (v : DMode) : Block := { k with dmode := v }

/-! ## The environment's sequences -/

def State.setBlk (s : State) (k : Block) : State := { s with blk := k }
/-- The ENC_IN token is consumed (R13 "done"). -/
def State.acceptEnc (s : State) : State := { s with encIn := s.encIn.tail }
/-- The DEC_IN token is consumed. -/
def State.acceptDec (s : State) : State := { s with decIn := s.decIn.tail }
/-- The CFG command is consumed. -/
def State.acceptCfg (s : State) : State := { s with cfgIn := s.cfgIn.tail }
/-- emit(ENC_OUT, t) for each token of the list (R9). -/
def State.emitEnc (s : State) (ts : List OutToken) : State := { s with encOut := s.encOut ++ ts }
/-- emit(DEC_OUT, t) for each token of the list (R9). -/
def State.emitDec (s : State) (ts : List OutToken) : State := { s with decOut := s.decOut ++ ts }
/-- One read response (R94). -/
def State.respond (s : State) (w : Word) : State := { s with cfgOut := s.cfgOut ++ [w] }
/-- The agent at the head of the order of steps has had its turn (log entry 1). -/
def State.advance (s : State) : State := { s with sched := s.sched.tail }

/-- KIND of an output token (R95). -/
def OutToken.kind : OutToken → BitVec 2
  | .data _ => 0b00#2
  | .endOk => 0b01#2
  | .endErr _ _ => 0b10#2

/-- CAUSE of an output token (R95): 0 in DATA and END_OK. -/
def OutToken.cause : OutToken → BitVec 4
  | .data _ => 0#4
  | .endOk => 0#4
  | .endErr c _ => c

/-- PAYLOAD of an output token (R95). -/
def OutToken.payload : OutToken → BitVec 8
  | .data x => x
  | .endOk => 0#8
  | .endErr _ v => v

/-- The 16 bits of an output token: KIND 15:14, reserved 13:12, CAUSE 11:8, PAYLOAD 7:0 (R95). -/
def OutToken.word (t : OutToken) : BitVec 16 := t.kind ++ 0#2 ++ t.cause ++ t.payload

/-- A successful result: DATA for each item, then END_OK (R95). -/
def successResult (xs : List Byte) : List OutToken := xs.map OutToken.data ++ [.endOk]

/-! ## Acceptance (`42_encoder_ops.md` R180, `43_decoder_ops.md` R200) -/

/-- A stream token is held while MODE = 0: nothing changes and it stays at the head of its port (R13 "hold"; log entry 3). -/
def whenRunning (s : State) (go : Result) : Result :=
  match s.blk.mode with
  | .config => .next s
  | .run => go

/-- Whether a length fits a capacity; `none` is unbounded (`20_memory.md` R75). -/
def fits (cap : Option Nat) (n : Nat) : Bool :=
  match cap with
  | none => true
  | some c => decide (n ≤ c)

/-! ## Failures (`60_exceptions.md` R230, R235, R236, R237) -/

/-- The cause code of UnknownSymbol (R230). -/
def causeUnknownSymbol : BitVec 4 := 1#4
/-- The cause code of TruncatedInput (R230). -/
def causeTruncatedInput : BitVec 4 := 2#4

/-- `raise UnknownSymbol(v)` (R235). `after` is EMODE afterwards: DRAIN if the token is SYM, NORMAL if it is EOM. -/
def State.raiseUnknownSymbol (s : State) (v : Sym) (after : EMode) : State :=
  (s.setBlk (((s.blk.setPacker 0x00#8 0#3 []).setUnk).setEmode after)).emitEnc [.endErr causeUnknownSymbol v]

/-- `raise TruncatedInput()` (R236). -/
def State.raiseTruncatedInput (s : State) : State :=
  (s.setBlk (((s.blk.setDbuf []).setTrunc).setDmode .idle)).emitDec [.endErr causeTruncatedInput 0#8]

/-- The encoder's return to normal operation at the failed message's own EOM (R237, R188). -/
def State.leaveDrain (s : State) : State := s.setBlk (s.blk.setEmode .normal)

/-! ## Fetching a token, and placing one (`20_memory.md` R69; log entries 1, 10) -/

/-- The operation the next agent would take: the token at the head of its port, decoded; none where no agent is chosen or its port
is empty. RESET needs no token (R260). -/
def State.fetch (s : State) : Option Instr :=
  match s.sched with
  | [] => none
  | .reset :: _ => some (decode .reset)
  | .cfg :: _ => s.cfgIn.head?.map fun w => decode (.cfg w)
  | .enc :: _ => s.encIn.head?.map fun w => decode (.encIn w)
  | .dec :: _ => s.decIn.head?.map fun w => decode (.decIn w)

/-- The host presents a token: it waits at the tail of its port (R44); RESET is an event and does not wait. -/
def State.present (s : State) (t : Token) : State :=
  match t with
  | .reset => s
  | .encIn w => { s with encIn := s.encIn ++ [w] }
  | .decIn w => { s with decIn := s.decIn ++ [w] }
  | .cfg w => { s with cfgIn := s.cfgIn ++ [w] }

/-- The agent that takes a token (R12). -/
def tokenAgent : Token → Agent
  | .reset => .reset
  | .encIn _ => .enc
  | .decIn _ => .dec
  | .cfg _ => .cfg

/-- Put a token where the next step takes it: at the head of its port, its agent first in the order of steps, and, for a stream
token, MODE = RUN, without which the token would be held and not taken (R180, R200). DESIGN CHOICE (log entry 10). -/
def State.placeNext (s : State) (t : Token) : State :=
  match t with
  | .reset => { s with sched := .reset :: s.sched }
  | .cfg w => { s with cfgIn := w :: s.cfgIn, sched := .cfg :: s.sched }
  | .encIn w => { s with encIn := w :: s.encIn, sched := .enc :: s.sched, blk := s.blk.setMode .run }
  | .decIn w => { s with decIn := w :: s.decIn, sched := .dec :: s.sched, blk := s.blk.setMode .run }

/-- `placeNext` of a row's bits; bits that are no token place nothing. -/
def State.placeTableWord (s : State) (nbits w : Nat) : State :=
  match tableToken nbits w with
  | .ok t => s.placeNext t
  | .error _ => s

/-- Sequencing of outcomes: go on from a next state, keep a stop. -/
def andThen (r : Result) (f : State → Result) : Result :=
  match r with
  | .next s => f s
  | .fault e => .fault e
  | .refused e => .refused e

end Sys2Proof.Machine
end

