-- ==== Sys2Proof/Machine/Operands.lean ====
section
/-! DEFINITION. The operand forms: LUT accessors (`10_state.md` R25), NODE accessors (R26), the bits of a byte
(`30_encoding.md` R102), and the premise WF_ROOT that every decoder step tests (R40, `43_decoder_ops.md` R215). -/

namespace Sys2Proof.Machine

/-- LUTW[s][k]. -/
def Block.lutWord (b : Block) (s : Sym) (k : Nat) : Word := b.lutw.read (lutKey s k)

/-- NODE[i]. -/
def Block.nodeWord (b : Block) (i : Idx) : Word := b.node.read (nodeKey i)

/-- valid(s) = LUTW[s][0][31] (R25). -/
def Block.valid (b : Block) (s : Sym) : Bool := (b.lutWord s 0).getLsbD 31

/-- len(s) = LUTW[s][0][7:0] (R25). -/
def Block.len (b : Block) (s : Sym) : Nat := ((b.lutWord s 0).extractLsb' 0 8).toNat

/-- bit(s,j) = LUTW[s][1 + (j div 32)][31 - (j mod 32)] (R25). -/
def Block.bit (b : Block) (s : Sym) (j : Nat) : Bool := (b.lutWord s (1 + j / 32)).getLsbD (31 - j % 32)

/-- code(s), the bit-string bit(s,0) ... bit(s,len(s)-1) (R25). -/
def Block.code (b : Block) (s : Sym) : Bits := (List.range (b.len s)).map (b.bit s)

/-- leaf(i) = NODE[i][31] (R26). -/
def Block.leaf (b : Block) (i : Idx) : Bool := (b.nodeWord i).getLsbD 31

/-- sym(i) = NODE[i][7:0] (R26). -/
def Block.sym (b : Block) (i : Idx) : Sym := (b.nodeWord i).extractLsb' 0 8

/-- child0(i) = NODE[i][24:16] (R26). -/
def Block.child0 (b : Block) (i : Idx) : Idx := (b.nodeWord i).extractLsb' 16 9

/-- child1(i) = NODE[i][8:0] (R26). -/
def Block.child1 (b : Block) (i : Idx) : Idx := (b.nodeWord i).extractLsb' 0 9

/-- The child a bit selects: the zero-child on 0, the one-child on 1 (R99, R202). -/
def Block.child (b : Block) (i : Idx) (bit : Bool) : Idx := if bit then b.child1 i else b.child0 i

/-- The eight bits of a byte in the order they are walked, bit 7 first (R64, R102, R201). -/
def byteBits (y : Byte) : Bits :=
  [y.getLsbD 7, y.getLsbD 6, y.getLsbD 5, y.getLsbD 4, y.getLsbD 3, y.getLsbD 2, y.getLsbD 1, y.getLsbD 0]

/-- WF_ROOT: leaf(ROOT) = 0 or sym(ROOT) = SENT (R40, R215). -/
def Block.wfRoot (b : Block) : Bool := !b.leaf b.root || b.sym b.root == b.sent

end Sys2Proof.Machine
end

