-- ==== Sys2Proof/Machine/Flags.lean ====
section
/-! DEFINITION. The STATUS word and the degenerate-code bits (`10_state.md` R37, R38). The sticky flags are set by
`Block.setUnk`, `Block.setTrunc` and `Block.setCfgerr` (R27). -/

namespace Sys2Proof.Machine

/-- DEGEN_E = valid(SENT) AND len(SENT) = 0 (R38). -/
def Block.degenE (b : Block) : Bool := b.valid b.sent && b.len b.sent == 0

/-- DEGEN_D = leaf(ROOT) (R38). -/
def Block.degenD (b : Block) : Bool := b.leaf b.root

/-- MODE as its bit: 0 CONFIG, 1 RUN (R21). -/
def Mode.bit : Mode → Bool
  | .config => false
  | .run => true

/-- EMODE as its bit: 0 NORMAL, 1 DRAIN (R31). -/
def EMode.bit : EMode → Bool
  | .normal => false
  | .drain => true

/-- DMODE as its two bits: 0 IDLE, 1 WALK, 2 SKIP (R34). -/
def DMode.code : DMode → BitVec 2
  | .idle => 0#2
  | .walk => 1#2
  | .skip => 2#2

/-- STATUS, assembled from the state at that moment (R37): RUN 0, UNK 1, TRUNC 2, CFGERR 3, DEGEN_E 4, DEGEN_D 5, EDRAIN 6,
DMODE 9:8, the rest 0. -/
def Block.status (b : Block) : Word :=
  0#22 ++ b.dmode.code ++ 0#1 ++ BitVec.ofBool b.emode.bit ++ BitVec.ofBool b.degenD ++ BitVec.ofBool b.degenE
    ++ BitVec.ofBool b.cfgerr ++ BitVec.ofBool b.trunc ++ BitVec.ofBool b.unk ++ BitVec.ofBool b.mode.bit

end Sys2Proof.Machine
end

