-- ==== Sys2Proof/Machine/CfgPort.lean ====
section
/-! DEFINITION. The meanings of the CFG operations (`41_config_ops.md` R160 to R170). A command is accepted in both modes. -/

namespace Sys2Proof.Machine

/-- A write: the command is consumed; in RUN it is refused, which only sets CFGERR (R161, taken first by R160 and R239); in CONFIG
it has the effect given. -/
def cfgWrite (s : State) (effect : Block → Block) : Result :=
  match s.blk.mode with
  | .run => .next (s.acceptCfg.setBlk s.blk.setCfgerr)
  | .config => .next (s.acceptCfg.setBlk (effect s.blk))

/-- MemRead(a, 1): the word a read returns (R170, R61, R73). -/
def Block.cfgRead (b : Block) (a : Addr) : Word :=
  if a = 0x0000#16 then 0#32
  else if a = 0x0001#16 then b.status
  else if a = 0x0002#16 then b.sent.setWidth 32
  else if a = 0x0003#16 then b.root.setWidth 32
  else if isLutKey a.toNat then b.lutw.read a.toNat
  else if isNodeKey a.toNat then b.node.read a.toNat
  else 0#32

/-- CFG.WR.CTRL: `if WDATA[0] = 1: MODE <- 1`, WDATA[31:1] ignored (R162, R36). -/
def execCfgWrCtrl (d : Word) (s : State) : Result :=
  cfgWrite s fun b => if d.getLsbD 0 then b.setMode .run else b

/-- CFG.WR.STATUS: `CFGERR <- 1`; STATUS is read-only (R163). -/
def execCfgWrStatus (_d : Word) (s : State) : Result :=
  cfgWrite s fun b => b.setCfgerr

/-- CFG.WR.SENT: `SENT <- WDATA[7:0]` (R164). -/
def execCfgWrSent (d : Word) (s : State) : Result :=
  cfgWrite s fun b => b.setSent (d.extractLsb' 0 8)

/-- CFG.WR.ROOT: `ROOT <- WDATA[8:0]` (R165). -/
def execCfgWrRoot (d : Word) (s : State) : Result :=
  cfgWrite s fun b => b.setRoot (d.extractLsb' 0 9)

/-- CFG.WR.LUT with k in 0..7: `LUTW[s][k] <- WDATA` (R166). -/
def execCfgWrLutK07 (c : Sym) (k : BitVec 3) (d : Word) (s : State) : Result :=
  cfgWrite s fun b => b.setLutw c k.toNat d

/-- CFG.WR.LUT with k = 8: `LUTW[s][8] <- WDATA` (R166). -/
def execCfgWrLutK8 (c : Sym) (d : Word) (s : State) : Result :=
  cfgWrite s fun b => b.setLutw c 8 d

/-- CFG.WR.LUTRSV: `CFGERR <- 1`; no word exists there (R167). -/
def execCfgWrLutRsv (_c : Sym) (_k : BitVec 4) (_d : Word) (s : State) : Result :=
  cfgWrite s fun b => b.setCfgerr

/-- CFG.WR.NODE: `NODE[i] <- WDATA` (R168). -/
def execCfgWrNode (i : Idx) (d : Word) (s : State) : Result :=
  cfgWrite s fun b => b.setNode i d

/-- CFG.WR.UNMAPPED: `CFGERR <- 1` (R169). -/
def execCfgWrUnmapped (_a : Addr) (_d : Word) (s : State) : Result :=
  cfgWrite s fun b => b.setCfgerr

/-- CFG.RD: one response word, no state change, no flag (R170, R67, R94). -/
def execCfgRd (a : Addr) (_ign : Word) (s : State) : Result :=
  .next (s.acceptCfg.respond (s.blk.cfgRead a))

end Sys2Proof.Machine
end

