-- ==== Sys2Proof/Machine/Decoder.lean ====
section
/-! DEFINITION. The decoder: the walk's procedures and the meanings of DEC.BYTE and DEC.END (`43_decoder_ops.md`). -/

namespace Sys2Proof.Machine

/-- `walk_bit(b)` (R202, R206): the block after it, and what it emits on DEC_OUT. -/
def Block.walkBit (k : Block) (b : Bool) : Block × List OutToken :=
  match k.dmode with
  | .walk =>
    let k := k.setCur (k.child k.cur b)
    if k.leaf k.cur then
      if k.sym k.cur = k.sent then ((k.setDbuf []).setDmode .skip, successResult k.dbuf)
      else ((k.setDbuf (k.dbuf ++ [k.sym k.cur])).setCur k.root, [])
    else (k, [])
  | .idle => (k, [])
  | .skip => (k, [])

/-- walk_bit of each bit in order, the tokens emitted in that order. -/
def Block.walkBits (k : Block) : Bits → Block × List OutToken
  | [] => (k, [])
  | b :: bs => (((k.walkBit b).1.walkBits bs).1, (k.walkBit b).2 ++ ((k.walkBit b).1.walkBits bs).2)

/-- `walk_byte(y)`: walk_bit(y[i]) for i = 7 down to 0 (R201). -/
def Block.walkByte (k : Block) (y : Byte) : Block × List OutToken := k.walkBits (byteBits y)

/-- CUR <- ROOT; DBUF <- []; DMODE <- WALK (R203). -/
def Block.startFrame (k : Block) : Block := ((k.setCur k.root).setDbuf []).setDmode .walk

/-- The longest DBUF became in a step that leaves block `k` and emits `out`: what it still holds, or the DATA tokens of the result it
committed (R75; log entry 8). -/
def dbufPeak (k : Block) (out : List OutToken) : Nat := max k.dbuf.length (out.length - 1)

/-- walk_byte, committed to the state; a finite DBUF_CAP that would be exceeded refuses the step (R75). -/
def walkAndCommit (p : Config.Params) (b : Byte) (s : State) : Result :=
  let r := s.blk.walkByte b
  if fits p.dbufCap (dbufPeak r.1 r.2) then .next ((s.setBlk r.1).emitDec r.2) else .refused .dbufOverCap

/-- The start of a frame when the root is a leaf (R204): the empty message, at the first token; DMODE afterwards is SKIP for BYTE and
IDLE for END. -/
def State.degenerateFrame (s : State) (after : DMode) : State :=
  (s.setBlk (s.blk.setDmode after)).emitDec [.endOk]

/-- A decoder step in RUN has no meaning when WF_ROOT is false (R215): it is refused. -/
def underWfRoot (s : State) (go : Result) : Result :=
  if s.blk.wfRoot then go else .refused .rootNotWf

/-- DEC.BYTE for given open parameters. Order of checks R239: held (R200), SKIP (R207), IDLE with a leaf root (R204), then walk
(R203 from IDLE, R205 in WALK). -/
def decByteWith (p : Config.Params) (b : Byte) (s : State) : Result :=
  whenRunning s <| underWfRoot s <|
    match s.blk.dmode with
    | .skip => .next s.acceptDec
    | .idle =>
      if s.blk.leaf s.blk.root then .next (s.acceptDec.degenerateFrame .skip)
      else walkAndCommit p b (s.acceptDec.setBlk s.blk.startFrame)
    | .walk => walkAndCommit p b s.acceptDec

/-- The empty byte sequence with an internal root: TruncatedInput (R208), or the empty message where the switch EMPTY_IS_OK is on
(`93_implementation_defined.md` U1). -/
def emptyFrame (p : Config.Params) (s : State) : State :=
  if p.emptyIsOk then s.emitDec [.endOk] else s.raiseTruncatedInput

/-- DEC.END for given open parameters. Order of checks R239: held (R200), SKIP (R210), IDLE with a leaf root (R204), TruncatedInput
(R208, R209). -/
def decEndWith (p : Config.Params) (s : State) : Result :=
  whenRunning s <| underWfRoot s <|
    match s.blk.dmode with
    | .skip => .next (s.acceptDec.setBlk (s.blk.setDmode .idle))
    | .idle =>
      if s.blk.leaf s.blk.root then .next (s.acceptDec.degenerateFrame .idle)
      else .next (emptyFrame p s.acceptDec)
    | .walk => .next s.acceptDec.raiseTruncatedInput

/-- DEC.BYTE b (R200, R203, R204, R205, R207). -/
def execDecByte (b : Byte) (s : State) : Result := decByteWith Config.params b s

/-- DEC.END (R200, R204, R208, R209, R210); bits 7:0 of the token are ignored (R92). -/
def execDecEnd (_ign : BitVec 8) (s : State) : Result := decEndWith Config.params s

end Sys2Proof.Machine
end

