-- ==== Sys2Proof/Machine/Encoder.lean ====
section
/-! DEFINITION. The encoder: the packer's procedures and the meanings of ENC.SYM and ENC.EOM (`42_encoder_ops.md`). -/

namespace Sys2Proof.Machine

/-- `push_bit(b)` (R181): shift left by one, the new bit enters at bit 0; a full byte moves to OBUF. -/
def Block.pushBit (k : Block) (b : Bool) : Block :=
  let acc : BitVec 8 := k.acc.extractLsb' 0 7 ++ BitVec.ofBool b
  let n := k.nb.toNat + 1
  if n = 8 then k.setPacker 0x00#8 0#3 (k.obuf ++ [acc]) else k.setPacker acc (BitVec.ofNat 3 n) k.obuf

/-- push_bit of each bit of a bit-string, in order. -/
def Block.pushBits (k : Block) (c : Bits) : Block := c.foldl Block.pushBit k

/-- `push_code(s)` (R182): push_bit(bit(s, j)) for j = 0 .. len(s)-1 in order. -/
def Block.pushCode (k : Block) (s : Sym) : Block := k.pushBits (k.code s)

/-- The packed bytes of the message when its bits end here: OBUF, and if NB > 0 the byte (ACC << (8 - NB))[7:0], pending bits to the
top, zeros below (R186). -/
def Block.flushed (k : Block) : List Byte :=
  if k.nb.toNat > 0 then k.obuf ++ [k.acc <<< (8 - k.nb.toNat)] else k.obuf

/-- ENC.SYM for given open parameters. Order of checks R239: held (R180), DRAIN (R185), valid(s) = 0 (R184), encode (R183); a finite
OBUF_CAP that would be exceeded refuses the step (R75). -/
def encSymWith (p : Config.Params) (c : Sym) (s : State) : Result :=
  whenRunning s <|
    match s.blk.emode with
    | .drain => .next s.acceptEnc
    | .normal =>
      if s.blk.valid c then
        let k := s.blk.pushCode c
        if fits p.obufCap k.obuf.length then .next (s.acceptEnc.setBlk k) else .refused .obufOverCap
      else .next (s.acceptEnc.raiseUnknownSymbol c .drain)

/-- ENC.EOM for given open parameters. Order of checks R239: held (R180), DRAIN (R188), valid(SENT) = 0 (R187), encode and commit
(R186, R189); a finite OBUF_CAP that would be exceeded refuses the step (R75). -/
def encEomWith (p : Config.Params) (s : State) : Result :=
  whenRunning s <|
    match s.blk.emode with
    | .drain => .next s.acceptEnc.leaveDrain
    | .normal =>
      if s.blk.valid s.blk.sent then
        let k := s.blk.pushCode s.blk.sent
        if fits p.obufCap k.flushed.length then
          .next ((s.acceptEnc.setBlk (k.setPacker 0x00#8 0#3 [])).emitEnc (successResult k.flushed))
        else .refused .obufOverCap
      else .next (s.acceptEnc.raiseUnknownSymbol s.blk.sent .normal)

/-- ENC.SYM s (R180, R183, R184, R185, R190). -/
def execEncSym (c : Sym) (s : State) : Result := encSymWith Config.params c s

/-- ENC.EOM (R180, R186, R187, R188, R189); bits 7:0 of the token are ignored (R91). -/
def execEncEom (_ign : BitVec 8) (s : State) : Result := encEomWith Config.params s

end Sys2Proof.Machine
end

