-- ==== Sys2Proof/Machine/Reset.lean ====
section
/-! DEFINITION. The meaning of RESET (`70_reset_and_hazards.md` R260, R261). -/

namespace Sys2Proof.Machine

/-- RESET: every state element takes the value of R42, in either mode; nothing is appended to a stream and waiting tokens stay, so a
message or frame in progress is dropped without a result (R261). -/
def execReset (s : State) : Result := .next (s.setBlk Block.reset)

end Sys2Proof.Machine
end

