-- ==== Sys2Proof/Machine/Dispatch.lean ====
section
/-! DEFINITION. One arm per operation of `30_encoding.md` R105. -/

namespace Sys2Proof.Machine

/-- The effect of one operation on the machine. -/
def exec (i : Instr) (s : State) : Host.Outcome State Fault Refusal :=
  match i with
  | .reset => Sys2Proof.Machine.execReset s
  | .encSym c => Sys2Proof.Machine.execEncSym c s
  | .encEom ign => Sys2Proof.Machine.execEncEom ign s
  | .decByte b => Sys2Proof.Machine.execDecByte b s
  | .decEnd ign => Sys2Proof.Machine.execDecEnd ign s
  | .cfgWrCtrl d => Sys2Proof.Machine.execCfgWrCtrl d s
  | .cfgWrStatus d => Sys2Proof.Machine.execCfgWrStatus d s
  | .cfgWrSent d => Sys2Proof.Machine.execCfgWrSent d s
  | .cfgWrRoot d => Sys2Proof.Machine.execCfgWrRoot d s
  | .cfgWrLutK07 c k d => Sys2Proof.Machine.execCfgWrLutK07 c k d s
  | .cfgWrLutK8 c d => Sys2Proof.Machine.execCfgWrLutK8 c d s
  | .cfgWrLutRsv c k d => Sys2Proof.Machine.execCfgWrLutRsv c k d s
  | .cfgWrNode n d => Sys2Proof.Machine.execCfgWrNode n d s
  | .cfgWrUnmapped a d => Sys2Proof.Machine.execCfgWrUnmapped a d s
  | .cfgRd a ign => Sys2Proof.Machine.execCfgRd a ign s

end Sys2Proof.Machine
end

