-- ==== Sys2Proof/Machine/Step.lean ====
section
/-! DEFINITION. One step: the next agent in the order of steps takes the token at the head of its port (`00_scope.md` R11,
`20_memory.md` R69; log entry 1). -/

namespace Sys2Proof.Machine

/-- One step. An agent without a token takes no step (`60_exceptions.md` R246): nothing changes but the order of steps. -/
def step (s : State) : Host.Outcome State Fault Refusal :=
  match s.fetch with
  | some i => exec i s.advance
  | none => .next s.advance

/-- The state with a row's bits where the next step takes its token (log entry 10). -/
def State.withFetchWord (s : State) (nbits w : Nat) : State := s.placeTableWord nbits w

end Sys2Proof.Machine
end

