-- ==== Sys2Proof/Machine/WireFormat.lean ====
section
/-! DEFINITION. The wire format and the operations as a whole, as the spec writes them beside the steps: `pack`, `unpack`
(`30_encoding.md` R101, R102), `compress` (`42_encoder_ops.md` R191), `decompress` (`43_decoder_ops.md` R212), and a sequence of
operations done one after another. The step calls none of them. -/

namespace Sys2Proof.Machine

/-- The operations of a list, done in order (a run is a sequence of steps, `70_reset_and_hazards.md` R272). -/
def execAll : List Instr → State → Result
  | [], s => .next s
  | i :: is, s => andThen (exec i s) (execAll is)

/-- `pack` (R101): byte k is the sum over i in 0..7 of q'(8k+i) * 2^(7-i), q'(j) = q_j if j < n, else 0; ceil(n / 8) bytes. -/
def pack (q : Bits) : List Byte :=
  (List.range ((q.length + 7) / 8)).map fun k =>
    BitVec.ofNat 8 (((List.range 8).map fun i => if q.getD (8 * k + i) false then 2 ^ (7 - i) else 0).sum)

/-- `unpack` (R102): the bit at position 8k + i is y_k[7 - i]. -/
def unpack (ys : List Byte) : Bits := ys.flatMap byteBits

/-- The bits of the message in progress that have been produced: those of OBUF, then the low NB bits of ACC, oldest in the highest of
those positions (R28, R30). -/
def Block.pendingBits (k : Block) : Bits :=
  unpack k.obuf ++ (List.range k.nb.toNat).map fun i => k.acc.getLsbD (k.nb.toNat - 1 - i)

/-- Q = code(m_0) ++ ... ++ code(m_(n-1)) ++ code(SENT) (R100). -/
def Block.messageBits (k : Block) (m : List Sym) : Bits := m.flatMap k.code ++ k.code k.sent

/-- `compress(M)`: the one result of a message (R191). -/
def Block.compress (k : Block) (m : List Sym) : List OutToken :=
  match m.find? fun c => !k.valid c with
  | some c => [.endErr causeUnknownSymbol c]
  | none =>
    if k.valid k.sent then successResult (pack (k.messageBits m)) else [.endErr causeUnknownSymbol k.sent]

/-- The loop of `decompress` (R212): the symbols before the sentinel, or none where the bits run out. -/
def Block.decodeBits (k : Block) (cur : Idx) (out : List Sym) : Bits → Option (List Sym)
  | [] => none
  | b :: bs =>
    let c := k.child cur b
    if k.leaf c then
      if k.sym c = k.sent then some out else k.decodeBits k.root (out ++ [k.sym c]) bs
    else k.decodeBits c out bs

/-- `decompress(Y)`: the one result of a frame (R212). -/
def Block.decompress (k : Block) (ys : List Byte) : List OutToken :=
  if k.leaf k.root then [.endOk]
  else
    match k.decodeBits k.root [] (unpack ys) with
    | some out => successResult out
    | none => [.endErr causeTruncatedInput 0#8]

/-- The operations of a message: `SYM m_0 .. SYM m_(n-1), EOM`, any ignored bits in EOM (R91). -/
def messageOps (m : List Sym) (ign : BitVec 8) : List Instr := m.map Instr.encSym ++ [.encEom ign]

/-- The operations of a frame: `BYTE y_0 .. BYTE y_(n-1), END`, any ignored bits in END (R92). -/
def frameOps (ys : List Byte) (ign : BitVec 8) : List Instr := ys.map Instr.decByte ++ [.decEnd ign]

end Sys2Proof.Machine
end

