-- ==== Sys2Proof/Machine/Construction.lean ====
section
/-! DEFINITION. Host software, not hardware: the construction of a table image from a corpus (`40_table_construction.md` R130 to R147),
and the pseudo-operations of the listing notation (`30_encoding.md` R107). The block runs none of it (log entry 14). -/

namespace Sys2Proof.Machine

/-! ## FrequencyAnalyzer (R131 to R133) -/

/-- A histogram: (symbol, weight) entries in ascending order of symbol, one entry per symbol. -/
abbrev Histogram := List (Sym × Nat)

/-- "Every symbol occurrence increments its count" (R131). -/
def Histogram.count : Histogram → Sym → Histogram
  | [], c => [(c, 1)]
  | (d, n) :: h, c =>
    if c.toNat < d.toNat then (c, 1) :: (d, n) :: h
    else if c = d then (d, n + 1) :: h
    else (d, n) :: Histogram.count h c

/-- H(S) <- 1, whether or not S was present (R132). -/
def Histogram.forceOne : Histogram → Sym → Histogram
  | [], c => [(c, 1)]
  | (d, n) :: h, c =>
    if c.toNat < d.toNat then (c, 1) :: (d, n) :: h
    else if c = d then (d, 1) :: h
    else (d, n) :: Histogram.forceOne h c

/-- The histogram of a corpus with sentinel S (R131, R132). -/
def histogram (corpus : List Sym) (sentinel : Sym) : Histogram :=
  (corpus.foldl Histogram.count []).forceOne sentinel

/-- The weight of a symbol, 0 where it has no entry. -/
def Histogram.weight (h : Histogram) (c : Sym) : Nat := (h.find? fun e => e.1 = c).elim 0 Prod.snd

/-! ## TrieBuilder (R134 to R139) -/

/-- A trie node, with its index in the node collection and its weight (R134, R144). -/
inductive Trie where
  | leaf (idx : Nat) (sym : Sym) (weight : Nat)
  | node (idx : Nat) (weight : Nat) (zero one : Trie)
  deriving DecidableEq, Repr

/-- The index of a node (R144). -/
def Trie.idx : Trie → Nat
  | .leaf i _ _ => i
  | .node i _ _ _ => i

/-- The weight of a node (R134, R135). -/
def Trie.weight : Trie → Nat
  | .leaf _ _ w => w
  | .node _ w _ _ => w

/-- The ordering key: a leaf's symbol, for an internal node the smaller of its children's keys (R134, R137). -/
def Trie.key : Trie → Nat
  | .leaf _ c _ => c.toNat
  | .node _ _ z o => min z.key o.key

/-- p is removed before q: by weight, then by key (R136). -/
def Trie.before (p q : Trie) : Bool :=
  decide (p.weight < q.weight) || (decide (p.weight = q.weight) && decide (p.key < q.key))

/-- Insert a node into the priority collection, kept in the order of removal (R136). -/
def insertNode (t : Trie) : List Trie → List Trie
  | [] => [t]
  | u :: us => if t.before u then t :: u :: us else u :: insertNode t us

/-- One leaf per histogram entry, indices 0 to L - 1 in ascending order of symbol (R134, R144). -/
def seedFrom : Nat → Histogram → List Trie
  | _, [] => []
  | i, (c, w) :: h => .leaf i c w :: seedFrom (i + 1) h

/-- The merge loop, at most `fuel` passes, `i` the index of the next internal node: the first node removed becomes the zero-child, the
second the one-child (R135, R138). -/
def mergeLoop : Nat → Nat → List Trie → List Trie
  | fuel + 1, i, x :: y :: rest => mergeLoop fuel (i + 1) (insertNode (.node i (x.weight + y.weight) x y) rest)
  | _, _, ts => ts

/-- The trie of a histogram (R134 to R139); none only for the empty histogram, which R132 excludes. -/
def buildTrie (h : Histogram) : Option Trie :=
  (mergeLoop (h.length - 1) h.length ((seedFrom 0 h).foldr insertNode [])).head?

/-! ## EncodingMapGenerator (R140, R141) -/

/-- The encoding map: one (symbol, bit-string) pair per leaf; the zero-child appends 0, the one-child 1 (R140, R141). -/
def Trie.codes : Trie → List (Sym × Bits)
  | .leaf _ c _ => [(c, [])]
  | .node _ _ z o => z.codes.map (fun e => (e.1, false :: e.2)) ++ o.codes.map (fun e => (e.1, true :: e.2))

/-- The leaves with their weights. -/
def Trie.leaves : Trie → List (Sym × Nat)
  | .leaf _ c w => [(c, w)]
  | .node _ _ z o => z.leaves ++ o.leaves

/-- The code of a symbol in the map. -/
def Trie.codeOf (t : Trie) (c : Sym) : Bits := (t.codes.find? fun e => e.1 = c).elim [] Prod.snd

/-! ## Pseudo-operations (R107) -/

/-- `LOCK`. -/
def lockOp : Instr := wr 0x0000#16 0x00000001#32
/-- `SETSENT s`. -/
def setSentOp (c : Sym) : Instr := wr 0x0002#16 (c.setWidth 32)
/-- `SETROOT i`. -/
def setRootOp (i : Idx) : Instr := wr 0x0003#16 (i.setWidth 32)
/-- `LUTCLR s`. -/
def lutClrOp (c : Sym) : Instr := wr (BitVec.ofNat 16 (lutKey c 0)) 0#32
/-- `LEAF i, s`: 0x80000000 + s (R99). -/
def leafOp (i : Idx) (c : Sym) : Instr := wr (BitVec.ofNat 16 (nodeKey i)) (BitVec.ofNat 32 (0x80000000 + c.toNat))
/-- `INODE i, a, b`: 65536 a + b (R99). -/
def inodeOp (i a b : Idx) : Instr := wr (BitVec.ofNat 16 (nodeKey i)) (BitVec.ofNat 32 (65536 * a.toNat + b.toNat))
/-- W_w: bits 32(w-1) .. 32w-1 of a bit-string, left-justified, padded with 0 bits (R107, R98). -/
def codeWord (c : Bits) (w : Nat) : Word :=
  BitVec.ofNat 32 (((List.range 32).map fun i => if c.getD (32 * (w - 1) + i) false then 2 ^ (31 - i) else 0).sum)
/-- `LUTSET s, "bits"`: the header 0x80000000 + n, then ceil(n / 32) code words. -/
def lutSetOps (s : Sym) (c : Bits) : List Instr :=
  wr (BitVec.ofNat 16 (lutKey s 0)) (BitVec.ofNat 32 (0x80000000 + c.length)) ::
    (List.range ((c.length + 31) / 32)).map fun w => wr (BitVec.ofNat 16 (lutKey s (w + 1))) (codeWord c (w + 1))

/-! ## The table image (R144) and the constructor (R172) -/

/-- The node writes of a trie: LEAF for a leaf, INODE for an internal node, the children's writes first. -/
def Trie.nodeOps : Trie → List (Nat × Instr)
  | .leaf i c _ => [(i, leafOp (BitVec.ofNat 9 i) c)]
  | .node i _ z o =>
    z.nodeOps ++ o.nodeOps ++ [(i, inodeOp (BitVec.ofNat 9 i) (BitVec.ofNat 9 z.idx) (BitVec.ofNat 9 o.idx))]

/-- Insert by index, so that the image lists the nodes in ascending order of index (R144). -/
def insertByIdx (e : Nat × Instr) : List (Nat × Instr) → List (Nat × Instr)
  | [] => [e]
  | f :: fs => if e.1 < f.1 then e :: f :: fs else f :: insertByIdx e fs

/-- The writes of the image of a trie: SETSENT, SETROOT, the nodes by index, the map by symbol (R144). -/
def Trie.image (t : Trie) (h : Histogram) (sentinel : Sym) : List Instr :=
  setSentOp sentinel :: setRootOp (BitVec.ofNat 9 t.idx) ::
    ((t.nodeOps.foldr insertByIdx []).map Prod.snd ++ h.flatMap fun e => lutSetOps e.1 (t.codeOf e.1))

/-- The reference table image of a corpus (R144). -/
def tableImage (corpus : List Sym) (sentinel : Sym) : List Instr :=
  match buildTrie (histogram corpus sentinel) with
  | some t => t.image (histogram corpus sentinel) sentinel
  | none => []

/-- `new(corpus)`: RESET, the table image, LOCK (R107, R172). -/
def newOps (corpus : List Sym) (sentinel : Sym) : List Instr :=
  .reset :: (tableImage corpus sentinel ++ [lockOp])

end Sys2Proof.Machine
end

