-- ==== Sys2Proof/Machine/Run.lean ====
section
/-! DEFINITION. Runs: what a run is, when it is over or quiescent, and the named premises of claims about one
(`70_reset_and_hazards.md` R272, R273). The step calls none of it. -/

namespace Sys2Proof.Machine

/-! ## What kind of operation a premise speaks of -/

/-- A CFG command with WE = 1 (R93). -/
def isCfgWrite (i : Instr) : Bool :=
  match encode i with
  | .cfg w => cfgWe w
  | .reset => false
  | .encIn _ => false
  | .decIn _ => false

/-- A LOCK write: a write of 0x0000 with WDATA[0] = 1 (R36). -/
def isLock (i : Instr) : Bool :=
  match encode i with
  | .cfg w => cfgWe w && decide (cfgAddr w = 0x0000#16) && (cfgData w).getLsbD 0
  | .reset => false
  | .encIn _ => false
  | .decIn _ => false

/-- An operation of the encoder. -/
def isEnc (i : Instr) : Bool := decide (tokenAgent (encode i) = .enc)

/-- An operation of the decoder. -/
def isDec (i : Instr) : Bool := decide (tokenAgent (encode i) = .dec)

/-- EOM or END: bit 8 of the stream token (R91, R92). -/
def endsItsMessage (i : Instr) : Bool :=
  match encode i with
  | .encIn w => w.getLsbD 8
  | .decIn w => w.getLsbD 8
  | .reset => false
  | .cfg _ => false

/-! ## A run (R272) -/

/-- The operation the next step does: the one fetched, unless it is a stream token held in CONFIG (R180, R200). -/
def State.taken (s : State) : Option Instr :=
  s.fetch.filter fun i => !((isEnc i || isDec i) && decide (s.blk.mode = .config))

/-- The machine stepped n times; a stop ends it. -/
def stepN : Nat → State → Result
  | 0, s => .next s
  | n + 1, s => andThen (step s) (stepN n)

/-- The operations done in the first n steps, in order. -/
def trace : Nat → State → List Instr
  | 0, _ => []
  | n + 1, s =>
    match step s with
    | .next t => s.taken.toList ++ trace n t
    | .fault _ => []
    | .refused _ => []

/-- The operations of a run: "a RESET followed by a finite sequence of steps with no further RESET" (R272). -/
def IsRun (ops : List Instr) : Bool :=
  match ops with
  | [] => false
  | i :: rest => decide (i = .reset) && rest.all fun j => decide (j ≠ .reset)

/-- The machine goes from `s` to `t` by a run whose operations are `run`. The tokens stand in the ports of `s`: a step takes the head
of a port and the host adds at its tail (R44), so when a token was presented makes no difference to the run that takes it. -/
def Runs (s : State) (run : List Instr) (t : State) : Prop :=
  IsRun run = true ∧ ∃ n, stepN n s = .next t ∧ trace n s = run

/-- A run is over when all three input ports are empty. -/
def Over (s : State) : Bool := s.encIn.isEmpty && s.decIn.isEmpty && s.cfgIn.isEmpty

/-- Over, and every message and frame begun has been ended. -/
def Quiescent (s : State) : Bool :=
  Over s && decide (s.blk.emode = .normal) && decide (s.blk.nb = 0#3) && decide (s.blk.acc = 0#8) && s.blk.obuf.isEmpty
    && decide (s.blk.dmode = .idle) && s.blk.dbuf.isEmpty

/-! ## Named premises of claims about a run (R273), on its operations in order -/

/-- CLEAN_START: "the run begins with RESET". It is a run of R272, so no other RESET follows. -/
def CleanStart (run : List Instr) : Bool := IsRun run

/-- The operations before the first LOCK write. -/
def beforeLock (run : List Instr) : List Instr := run.takeWhile fun i => !isLock i

/-- IMAGE(T): between RESET and LOCK exactly the writes of T, in any order (R172), and no other write; each write of the
list counts, also one that occurs twice (log entry 20). -/
def ImageIs (image run : List Instr) : Bool := ((beforeLock run).filter isCfgWrite).isPerm image

/-- LOCKED_ONCE: "exactly one LOCK write, after the image": every write of the image, as often as the image holds it (log entry 20), comes
before. -/
def LockedOnce (image run : List Instr) : Bool :=
  (run.filter isLock).length == 1 && image.all fun w => decide (image.count w ≤ (beforeLock run).count w)

/-- NO_SENT_IN_MSG: no SYM token carries SENT. -/
def NoSentInMsg (sentinel : Sym) (run : List Instr) : Bool := run.all fun i => i != .encSym sentinel

/-- FRAMED: every message ends with EOM and every frame with END inside the run. -/
def Framed (run : List Instr) : Bool :=
  (run.filter isEnc).getLast?.all endsItsMessage && (run.filter isDec).getLast?.all endsItsMessage

/-- NO_CFGERR: the flag CFGERR is 0 at the end, so no configuration write was refused. -/
def NoCfgErr (s : State) : Bool := !s.blk.cfgerr

end Sys2Proof.Machine
end

