-- ==== Sys2Proof/Safety.lean ====
section
/-! DEFINITION. What claims are stated in: the premises on tables of `10_state.md` R40, the invariants of R39, what frames are stated
in, and the premises of the round trip (`70_reset_and_hazards.md` R273). Runs themselves are `Machine/Run.lean`. -/

namespace Sys2Proof.Machine

/-! ## Premises on the table contents (R40) -/

/-- The node reached from node `i` by a path of child fields of internal nodes. -/
def Block.descend (k : Block) (i : Idx) : Bits → Option Idx
  | [] => some i
  | b :: bs => if k.leaf i then none else k.descend (k.child i b) bs

/-- The node at a path from ROOT. -/
def Block.nodeAt (k : Block) (p : Bits) : Option Idx := k.descend k.root p

/-- The path leads from ROOT to a leaf with this symbol. -/
def Block.LeafAt (k : Block) (p : Bits) (c : Sym) : Prop :=
  ∃ i, k.nodeAt p = some i ∧ k.leaf i = true ∧ k.sym i = c

/-- WF_TRIE (R40): no node is reached by two paths, the leaves' symbols are pairwise distinct, one leaf has symbol SENT. -/
structure WfTrie (k : Block) : Prop where
  tree : ∀ p q i, k.nodeAt p = some i → k.nodeAt q = some i → p = q
  distinct : ∀ p q c, k.LeafAt p c → k.LeafAt q c → p = q
  sentinel : ∃ p, k.LeafAt p k.sent

/-- WF_LUT (R40): the sentinel has an entry, and no valid entry's code is a prefix of another's. -/
structure WfLut (k : Block) : Prop where
  sentinel : k.valid k.sent = true
  prefixFree : ∀ c d, c ≠ d → k.valid c = true → k.valid d = true → ¬ k.code c <+: k.code d

/-- CONSISTENT (R40): WF_TRIE, valid(s) = 1 exactly for the symbols of the leaves, and code(s) is that leaf's path. -/
structure Consistent (k : Block) : Prop where
  trie : WfTrie k
  valid_iff : ∀ c, k.valid c = true ↔ ∃ p, k.LeafAt p c
  code_eq : ∀ p c, k.LeafAt p c → k.code c = p

/-! ## Invariants (R39) -/

/-- The tables keep the canonical form and list only addresses of their own (R61; log entry 4). -/
structure TablesWf (k : Block) : Prop where
  lutw : k.lutw.wf = true
  lutwKeys : k.lutw.within isLutKey = true
  node : k.node.wf = true
  nodeKeys : k.node.within isNodeKey = true

/-- R39 (a) to (f); 0 <= NB <= 7 holds by the width of NB. -/
structure UnitInv (k : Block) : Prop where
  /-- (a) -/
  acc : k.acc.toNat < 2 ^ k.nb.toNat
  /-- (b) -/
  drain : k.emode = .drain → k.nb = 0#3 ∧ k.acc = 0#8 ∧ k.obuf = []
  /-- (c) -/
  config : k.mode = .config →
    k.nb = 0#3 ∧ k.acc = 0#8 ∧ k.obuf = [] ∧ k.emode = .normal ∧ k.dmode = .idle ∧ k.dbuf = []
  /-- (d) -/
  dbuf : k.dmode ≠ .walk → k.dbuf = []
  /-- (e) -/
  walk : k.dmode = .walk → k.leaf k.root = false ∧ (∃ p, k.nodeAt p = some k.cur) ∧ k.leaf k.cur = false
  /-- (f) -/
  sentinel : ∀ c ∈ k.dbuf, c ≠ k.sent

/-- The number of bits produced for the message in progress, 8 * |OBUF| + NB (R39 (g)). -/
def Block.bitCount (k : Block) : Nat := 8 * k.obuf.length + k.nb.toNat

/-! ## What frames are stated in -/

/-- The configuration address an operation stores a table word at, where it stores one (R166, R168). -/
def storedAddr : Instr → Option Nat
  | .cfgWrLutK07 c k _ => some (lutKey c k.toNat)
  | .cfgWrLutK8 c _ => some (lutKey c 8)
  | .cfgWrNode i _ => some (nodeKey i)
  | .reset => none
  | .encSym _ => none
  | .encEom _ => none
  | .decByte _ => none
  | .decEnd _ => none
  | .cfgWrCtrl _ => none
  | .cfgWrStatus _ => none
  | .cfgWrSent _ => none
  | .cfgWrRoot _ => none
  | .cfgWrLutRsv _ _ _ => none
  | .cfgWrUnmapped _ _ => none
  | .cfgRd _ _ => none

/-- What one step may append to an output stream: nothing, one whole success, or one failure (R35, R95). -/
def AppendsOneResult (ts : List OutToken) : Prop :=
  ts = [] ∨ (∃ xs, ts = successResult xs) ∨ ∃ c v, ts = [.endErr c v]

/-! ## The premises of the round trip over a run (R273) -/

/-- "The source's round-trip property needs CLEAN_START, IMAGE of a consistent table, LOCKED_ONCE, NO_SENT_IN_MSG and FRAMED" (R273),
of a run whose tables are the writes `image`. DESIGN CHOICE (log entry 20): for an image list that writes one address twice, of which
the spec does not speak, CONSISTENT is asked of the table the run's own writes before LOCK leave, in the order the run performs them. -/
structure RoundTripPremises (image run : List Instr) : Prop where
  cleanStart : CleanStart run = true
  imageIs : ImageIs image run = true
  consistent : ∃ t, execAll (.reset :: (beforeLock run).filter isCfgWrite) State.reset = .next t ∧ Consistent t.blk ∧ NoSentInMsg t.blk.sent run = true
  lockedOnce : LockedOnce image run = true
  framed : Framed run = true

end Sys2Proof.Machine
end

