-- ==== Sys2Proof/Certificates/Slice0/Obligations.lean ====
section
/-! DEFINITION. The statements. Each docstring names the rule of spec/ it formalises. Marks: where the spec itself calls a sentence
derived, or where the model chose, the docstring says so. -/

section
open Sys2Proof Sys2Proof.Machine

/-! ## Encodings -/

/-- Decode and encode agree: every well-formed operation, at every value of every operand, is recovered from its token
(`30_encoding.md` sections 1 and 5). -/
def Obligations.DecodeOfEncodeIsTheOperation : Prop :=
  ∀ i : Instr, WellFormed i = true → decode (encode i) = i

/-- The other direction: every token of every port (all are legal, R104) is the token of the operation it decodes to, which is
well-formed: no bit of a token is dropped. -/
def Obligations.EncodeOfDecodeIsTheToken : Prop :=
  ∀ t : Token, encode (decode t) = t ∧ WellFormed (decode t) = true

/-- The worked encodings of R108 (which the spec calls derived) and one write per row of the operation map that has no word
there: CTRL, STATUS, SENT, ROOT, LUT word 8, a reserved LUT word, an unmapped address. -/
def Obligations.WorkedWordsDecode : Prop :=
  decode (.encIn 0x061#9) = .encSym 0x61#8 ∧
  decode (.encIn 0x100#9) = .encEom 0#8 ∧
  decode (.decIn 0x076#9) = .decByte 0x76#8 ∧
  decode (.decIn 0x100#9) = .decEnd 0#8 ∧
  decode (.cfg 0x11621C0000000#49) = .cfgWrLutK07 0x62#8 1#3 0xC0000000#32 ∧
  decode (.cfg 0x0000100000000#49) = .cfgRd 0x0001#16 0#32 ∧
  decode (.cfg 0x1163080000003#49) = .cfgWrLutK07 0x63#8 0#3 0x80000003#32 ∧
  decode (.cfg 0x11631A0000000#49) = .cfgWrLutK07 0x63#8 1#3 0xA0000000#32 ∧
  decode (.cfg 0x1200600010005#49) = .cfgWrNode 6#9 0x00010005#32 ∧
  decode (.cfg 0x1200180000061#49) = .cfgWrNode 1#9 0x80000061#32 ∧
  decode (.cfg 0x1000000000001#49) = .cfgWrCtrl 0x00000001#32 ∧
  decode (.cfg 0x1000100000000#49) = .cfgWrStatus 0x00000000#32 ∧
  decode (.cfg 0x1000200000041#49) = .cfgWrSent 0x00000041#32 ∧
  decode (.cfg 0x1000300000006#49) = .cfgWrRoot 0x00000006#32 ∧
  decode (.cfg 0x1161812345678#49) = .cfgWrLutK8 0x61#8 0x12345678#32 ∧
  decode (.cfg 0x1161900000005#49) = .cfgWrLutRsv 0x61#8 9#4 0x5#32 ∧
  decode (.cfg 0x1220000000001#49) = .cfgWrUnmapped 0x2200#16 0x1#32 ∧
  (OutToken.data 0x76#8).word = 0x0076#16 ∧
  OutToken.endOk.word = 0x4000#16 ∧
  (OutToken.endErr 1#4 0x7A#8).word = 0x817A#16 ∧
  (OutToken.endErr 2#4 0#8).word = 0x8200#16

/-- A write decodes by the address map of R61, read as numbers: CTRL, STATUS, SENT, ROOT, LUTW[s][k] for k in 0..7, k = 8 and
k in 9..15, NODE[i], and the two unmapped ranges of R169; these are all addresses. -/
def Obligations.WritesDecodeByTheAddressMap : Prop :=
  ∀ (a : Addr) (d : Word),
    (a.toNat = 0x0000 → decode (.cfg (cfgWord true a d)) = .cfgWrCtrl d) ∧
    (a.toNat = 0x0001 → decode (.cfg (cfgWord true a d)) = .cfgWrStatus d) ∧
    (a.toNat = 0x0002 → decode (.cfg (cfgWord true a d)) = .cfgWrSent d) ∧
    (a.toNat = 0x0003 → decode (.cfg (cfgWord true a d)) = .cfgWrRoot d) ∧
    (∀ (c : Sym) (k : BitVec 3), a.toNat = 0x1000 + 16 * c.toNat + k.toNat →
      decode (.cfg (cfgWord true a d)) = .cfgWrLutK07 c k d) ∧
    (∀ c : Sym, a.toNat = 0x1000 + 16 * c.toNat + 8 → decode (.cfg (cfgWord true a d)) = .cfgWrLutK8 c d) ∧
    (∀ (c : Sym) (k : BitVec 4), 9 ≤ k.toNat → a.toNat = 0x1000 + 16 * c.toNat + k.toNat →
      decode (.cfg (cfgWord true a d)) = .cfgWrLutRsv c k d) ∧
    (∀ i : Idx, a.toNat = 0x2000 + i.toNat → decode (.cfg (cfgWord true a d)) = .cfgWrNode i d) ∧
    (0x0004 ≤ a.toNat ∧ a.toNat ≤ 0x0FFF ∨ 0x2200 ≤ a.toNat →
      decode (.cfg (cfgWord true a d)) = .cfgWrUnmapped a d) ∧
    decode (.cfg (cfgWord false a d)) = .cfgRd a d

/-- Stream tokens decode by value (R91, R92): 0x000 to 0x0FF is SYM or BYTE with the low 8 bits, 0x100 to 0x1FF is EOM or END. -/
def Obligations.StreamTokensDecodeByValue : Prop :=
  ∀ w : BitVec 9,
    (w.toNat ≤ 0x0FF →
      decode (.encIn w) = .encSym (w.setWidth 8) ∧ decode (.decIn w) = .decByte (w.setWidth 8)) ∧
    (0x100 ≤ w.toNat → (∃ g, decode (.encIn w) = .encEom g) ∧ ∃ g, decode (.decIn w) = .decEnd g)

/-- Output tokens as numbers (R95): DATA x = x, END_OK = 0x4000, END_ERR(c, v) = 0x8000 + 256 c + v; bits 13:12 are 0, KIND 0b11 is
never produced, and two different tokens never have the same word. -/
def Obligations.OutputTokenWords : Prop :=
  (∀ x, (OutToken.data x).word.toNat = x.toNat) ∧
  OutToken.endOk.word.toNat = 0x4000 ∧
  (∀ c v, (OutToken.endErr c v).word.toNat = 0x8000 + 256 * c.toNat + v.toNat) ∧
  (∀ t : OutToken, t.word.extractLsb' 12 2 = 0#2 ∧ t.word.extractLsb' 14 2 ≠ 0b11#2) ∧
  ∀ t u : OutToken, t.word = u.word → t = u

/-! ## The step -/

/-- A step runs the decoded token at the head of the chosen agent's port, RESET without a token; around exec the step only takes the
agent off the model's order of steps (`20_memory.md` section 3; log entry 1). -/
def Obligations.StepRunsTheHeadToken : Prop :=
  ∀ (s : State) (as : List Agent),
    (s.sched = .reset :: as → step s = exec .reset { s with sched := as }) ∧
    (∀ w ws, s.sched = .enc :: as → s.encIn = w :: ws → step s = exec (decode (.encIn w)) { s with sched := as }) ∧
    (∀ w ws, s.sched = .dec :: as → s.decIn = w :: ws → step s = exec (decode (.decIn w)) { s with sched := as }) ∧
    (∀ w ws, s.sched = .cfg :: as → s.cfgIn = w :: ws → step s = exec (decode (.cfg w)) { s with sched := as })

/-- An agent without a token takes no step, and neither does a machine for which no agent is chosen: only the model's order of steps
advances. The model's choice, log entry 1 (`60_exceptions.md` section 7 says a unit with no token simply takes no step). -/
def Obligations.NoTokenNoStep : Prop :=
  ∀ (s : State) (as : List Agent),
    (s.sched = [] → step s = .next s) ∧
    (s.sched = .enc :: as → s.encIn = [] → step s = .next { s with sched := as }) ∧
    (s.sched = .dec :: as → s.decIn = [] → step s = .next { s with sched := as }) ∧
    (s.sched = .cfg :: as → s.cfgIn = [] → step s = .next { s with sched := as })

/-! ## Reset -/

/-- R42: RESET completes from any state and leaves every state element at the value of the table; ENC_OUT, DEC_OUT and the waiting
input tokens are unchanged. (The read responses and the model's own order of steps: Obligations.PowerOnIsAReset.) -/
def Obligations.ResetGivesEveryElementItsValue : Prop :=
  ∀ s : State, ∃ t, exec .reset s = .next t ∧
    t.blk.mode = .config ∧ t.blk.sent = 0x00#8 ∧ t.blk.root = 0x000#9 ∧
    (∀ c k, t.blk.lutWord c k = 0x00000000#32) ∧ (∀ i, t.blk.nodeWord i = 0x00000000#32) ∧
    t.blk.unk = false ∧ t.blk.trunc = false ∧ t.blk.cfgerr = false ∧
    t.blk.acc = 0x00#8 ∧ t.blk.nb = 0#3 ∧ t.blk.obuf = [] ∧ t.blk.emode = .normal ∧
    t.blk.cur = 0x000#9 ∧ t.blk.dbuf = [] ∧ t.blk.dmode = .idle ∧
    t.encOut = s.encOut ∧ t.decOut = s.decOut ∧ t.encIn = s.encIn ∧ t.decIn = s.decIn ∧ t.cfgIn = s.cfgIn

/-- Power-on is a RESET (`70_reset_and_hazards.md` section 1): from any state RESET completes, and the block it leaves is that of the
state after reset, whose STATUS word is 0 (which the spec derives from its table of reset values, `10_state.md` section 7). That RESET
leaves the read responses and the model's order of steps as they are is DEDUCED, log entry 18. That the environment's sequences and the
order of steps are empty at State.reset is the model's choice, log entry 11. -/
def Obligations.PowerOnIsAReset : Prop :=
  (∀ s : State, ∃ t, exec .reset s = .next t ∧ t.blk = State.reset.blk ∧ t.cfgOut = s.cfgOut ∧ t.sched = s.sched) ∧
  State.reset.blk.status = 0x00000000#32 ∧
  State.reset.encIn = [] ∧ State.reset.decIn = [] ∧ State.reset.cfgIn = [] ∧
  State.reset.encOut = [] ∧ State.reset.decOut = [] ∧ State.reset.cfgOut = [] ∧ State.reset.sched = []

/-! ## Invariants -/

/-- Every step keeps the invariants (a) to (f) of R39, from every state that has them (the spec derives them by induction over its
rules, `10_state.md` section 8). -/
def Obligations.StepKeepsTheUnitInvariants : Prop :=
  ∀ s t : State, UnitInv s.blk → step s = .next t → UnitInv t.blk

/-- Every step keeps the canonical form of both tables and lists in them only addresses of their own (the model's form, log
entry 4). -/
def Obligations.StepKeepsTheTablesCanonical : Prop :=
  ∀ s t : State, TablesWf s.blk → step s = .next t → TablesWf t.blk

/-- The state after reset meets the invariants. -/
def Obligations.ResetMeetsTheInvariants : Prop :=
  UnitInv State.reset.blk ∧ TablesWf State.reset.blk

/-- Immutability in RUN (R43, which the spec derives from R161): while MODE = 1 no operation but RESET changes MODE, SENT, ROOT, LUTW
or NODE. -/
def Obligations.TablesFrozenInRun : Prop :=
  ∀ (s t : State) (i : Instr), s.blk.mode = .run → i ≠ .reset → exec i s = .next t →
    t.blk.mode = .run ∧ t.blk.sent = s.blk.sent ∧ t.blk.root = s.blk.root ∧
    t.blk.lutw = s.blk.lutw ∧ t.blk.node = s.blk.node

/-- MODE goes from CONFIG to RUN only by the LOCK write and from RUN to CONFIG only by RESET (`10_state.md` section 2). -/
def Obligations.ModeChangesOnlyByLockAndReset : Prop :=
  ∀ (s t : State) (i : Instr), exec i s = .next t →
    (s.blk.mode = .config → t.blk.mode = .run → ∃ d : Word, i = .cfgWrCtrl d ∧ d.getLsbD 0 = true) ∧
    (s.blk.mode = .run → t.blk.mode = .config → i = .reset)

/-- The sticky flags (`10_state.md` section 3): only RESET clears one, and each is set exactly by its event: UNK by a reported
UnknownSymbol, TRUNC by a reported TruncatedInput, CFGERR by a refused write. -/
def Obligations.FlagsAreStickyAndSetByTheirEvents : Prop :=
  ∀ (s t : State) (i : Instr), exec i s = .next t →
    (i = .reset → t.blk.unk = false ∧ t.blk.trunc = false ∧ t.blk.cfgerr = false) ∧
    (i ≠ .reset →
      (t.blk.unk = true ↔ s.blk.unk = true ∨ ∃ v, t.encOut = s.encOut ++ [.endErr causeUnknownSymbol v]) ∧
      (t.blk.trunc = true ↔ s.blk.trunc = true ∨ t.decOut = s.decOut ++ [.endErr causeTruncatedInput 0#8]) ∧
      (t.blk.cfgerr = true ↔ s.blk.cfgerr = true ∨ (isCfgWrite i = true ∧ (s.blk.mode = .run ∨
        (∃ d, i = .cfgWrStatus d) ∨ (∃ c k d, i = .cfgWrLutRsv c k d) ∨ ∃ a d, i = .cfgWrUnmapped a d))))

/-- The output streams are append-only and a step appends to each either nothing or one whole result (`10_state.md` section 6). -/
def Obligations.StreamsGrowByWholeResults : Prop :=
  ∀ s t : State, step s = .next t →
    (∃ r, t.encOut = s.encOut ++ r ∧ AppendsOneResult r) ∧ ∃ r, t.decOut = s.decOut ++ r ∧ AppendsOneResult r

/-- Sentinel exclusion (R214, derived by the spec): no DATA token appended to DEC_OUT carries SENT, for any tables and any input, in a
state that meets R39. -/
def Obligations.DecodedOutputNeverHoldsTheSentinel : Prop :=
  ∀ (s t : State) (i : Instr) (r : List OutToken), UnitInv s.blk → exec i s = .next t → t.decOut = s.decOut ++ r →
    OutToken.data s.blk.sent ∉ r

/-- An END_ERR on ENC_OUT has cause 1, on DEC_OUT cause 2 and info 0; so DegenerateCode, code 3, is never reported
(`60_exceptions.md` section 1). -/
def Obligations.OnlyTwoCausesAreEverReported : Prop :=
  ∀ (s t : State) (r : List OutToken) (c : BitVec 4) (v : BitVec 8), step s = .next t → OutToken.endErr c v ∈ r →
    (t.encOut = s.encOut ++ r → c = 1#4) ∧ (t.decOut = s.decOut ++ r → c = 2#4 ∧ v = 0#8)

/-! ## Configuration operations -/

/-- R161: a write in RUN, to any address with any data, sets CFGERR and changes nothing else. -/
def Obligations.WriteInRunIsRefused : Prop :=
  ∀ (s : State) (a : Addr) (d : Word), s.blk.mode = .run →
    exec (decode (.cfg (cfgWord true a d))) s =
      .next { s with cfgIn := s.cfgIn.tail, blk := { s.blk with cfgerr := true } }

/-- R162: in CONFIG a write to CTRL sets MODE to RUN if WDATA[0] = 1 and does nothing otherwise. -/
def Obligations.LockWriteEntersRun : Prop :=
  (∀ d, decode (.cfg (cfgWord true 0x0000#16 d)) = .cfgWrCtrl d) ∧
  ∀ (s : State) (d : Word), s.blk.mode = .config →
    exec (.cfgWrCtrl d) s =
      .next { s with
        cfgIn := s.cfgIn.tail
        blk := { s.blk with mode := if d.getLsbD 0 = true then .run else .config } }

/-- R163: a write to STATUS sets CFGERR, in both modes, and changes nothing else. -/
def Obligations.StatusWriteIsRefused : Prop :=
  (∀ d, decode (.cfg (cfgWord true 0x0001#16 d)) = .cfgWrStatus d) ∧
  ∀ (s : State) (d : Word),
    exec (.cfgWrStatus d) s = .next { s with cfgIn := s.cfgIn.tail, blk := { s.blk with cfgerr := true } }

/-- R164: in CONFIG, SENT <- WDATA[7:0]. -/
def Obligations.SentWriteStoresLowByte : Prop :=
  (∀ d, decode (.cfg (cfgWord true 0x0002#16 d)) = .cfgWrSent d) ∧
  ∀ (s : State) (d : Word), s.blk.mode = .config →
    exec (.cfgWrSent d) s = .next { s with cfgIn := s.cfgIn.tail, blk := { s.blk with sent := d.setWidth 8 } }

/-- R165: in CONFIG, ROOT <- WDATA[8:0]. -/
def Obligations.RootWriteStoresLowNineBits : Prop :=
  (∀ d, decode (.cfg (cfgWord true 0x0003#16 d)) = .cfgWrRoot d) ∧
  ∀ (s : State) (d : Word), s.blk.mode = .config →
    exec (.cfgWrRoot d) s = .next { s with cfgIn := s.cfgIn.tail, blk := { s.blk with root := d.setWidth 9 } }

/-- R166, both rows: in CONFIG, LUTW[s][k] <- WDATA, all 32 bits; every other word of the LUT, and everything else, is unchanged. -/
def Obligations.LutWriteStoresTheWord : Prop :=
  (∀ (c : Sym) (d : Word),
    (∀ k : BitVec 3, decode (.cfg (cfgWord true (BitVec.ofNat 16 (lutKey c k.toNat)) d)) = .cfgWrLutK07 c k d) ∧
    decode (.cfg (cfgWord true (BitVec.ofNat 16 (lutKey c 8)) d)) = .cfgWrLutK8 c d) ∧
  ∀ (s : State) (c : Sym) (d : Word), s.blk.mode = .config → TablesWf s.blk →
    (∀ k : BitVec 3, ∃ t, exec (.cfgWrLutK07 c k d) s = .next t ∧
      t = { s with cfgIn := s.cfgIn.tail, blk := { s.blk with lutw := t.blk.lutw } } ∧
      t.blk.lutWord c k.toNat = d ∧ (∀ a, a ≠ lutKey c k.toNat → t.blk.lutw.read a = s.blk.lutw.read a) ∧
      ∀ c' k', k' ≤ 8 → ¬ (c' = c ∧ k' = k.toNat) → t.blk.lutWord c' k' = s.blk.lutWord c' k') ∧
    ∃ t, exec (.cfgWrLutK8 c d) s = .next t ∧
      t = { s with cfgIn := s.cfgIn.tail, blk := { s.blk with lutw := t.blk.lutw } } ∧
      t.blk.lutWord c 8 = d ∧ (∀ a, a ≠ lutKey c 8 → t.blk.lutw.read a = s.blk.lutw.read a) ∧
      ∀ c' k', k' ≤ 8 → ¬ (c' = c ∧ k' = 8) → t.blk.lutWord c' k' = s.blk.lutWord c' k'

/-- R168: in CONFIG, NODE[i] <- WDATA, all 32 bits; every other node, and everything else, is unchanged. -/
def Obligations.NodeWriteStoresTheWord : Prop :=
  (∀ (i : Idx) (d : Word), decode (.cfg (cfgWord true (BitVec.ofNat 16 (nodeKey i)) d)) = .cfgWrNode i d) ∧
  ∀ (s : State) (i : Idx) (d : Word), s.blk.mode = .config → TablesWf s.blk →
    ∃ t, exec (.cfgWrNode i d) s = .next t ∧
      t = { s with cfgIn := s.cfgIn.tail, blk := { s.blk with node := t.blk.node } } ∧
      t.blk.nodeWord i = d ∧ (∀ a, a ≠ nodeKey i → t.blk.node.read a = s.blk.node.read a) ∧
      ∀ j, j ≠ i → t.blk.nodeWord j = s.blk.nodeWord j

/-- R167, R169 and R161: a write to a reserved LUT word (k in 9..15) or to an unmapped address sets CFGERR and changes nothing else, in
CONFIG by R167 and R169 and in RUN by R161, which says the same of a write to any address with any data. -/
def Obligations.ReservedAndUnmappedWritesAreRefused : Prop :=
  ∀ (s : State) (d : Word),
    (∀ (c : Sym) (k : BitVec 4), 9 ≤ k.toNat → exec (.cfgWrLutRsv c k d) s =
      .next { s with cfgIn := s.cfgIn.tail, blk := { s.blk with cfgerr := true } }) ∧
    (∀ a : Addr, 0x0004 ≤ a.toNat ∧ a.toNat ≤ 0x0FFF ∨ 0x2200 ≤ a.toNat → exec (.cfgWrUnmapped a d) s =
      .next { s with cfgIn := s.cfgIn.tail, blk := { s.blk with cfgerr := true } }) ∧
    (s.blk.mode = .run → ∀ a : Addr, exec (decode (.cfg (cfgWord true a d))) s =
      .next { s with cfgIn := s.cfgIn.tail, blk := { s.blk with cfgerr := true } }) ∧
    ∀ a : Addr,
      (0x1000 ≤ a.toNat ∧ a.toNat ≤ 0x1FFF ∧ 9 ≤ a.toNat % 16 →
        ∃ (c : Sym) (k : BitVec 4), 9 ≤ k.toNat ∧ a.toNat = 0x1000 + 16 * c.toNat + k.toNat ∧
          decode (.cfg (cfgWord true a d)) = .cfgWrLutRsv c k d) ∧
      (0x0004 ≤ a.toNat ∧ a.toNat ≤ 0x0FFF ∨ 0x2200 ≤ a.toNat → decode (.cfg (cfgWord true a d)) = .cfgWrUnmapped a d)

/-- R170: a word with WE = 0 is a read, its WDATA ignored; in both modes, at every address, a read appends one response and changes
nothing else; the response by address. -/
def Obligations.ReadRespondsByAddress : Prop :=
  (∀ (a : Addr) (g : Word), decode (.cfg (cfgWord false a g)) = .cfgRd a g) ∧
  ∀ (s : State) (a : Addr), ∃ w, ∀ g : Word,
    exec (.cfgRd a g) s = .next { s with cfgIn := s.cfgIn.tail, cfgOut := s.cfgOut ++ [w] } ∧
    (a.toNat = 0x0000 → w = 0#32) ∧
    (a.toNat = 0x0001 → w = s.blk.status) ∧
    (a.toNat = 0x0002 → w = s.blk.sent.setWidth 32) ∧
    (a.toNat = 0x0003 → w = s.blk.root.setWidth 32) ∧
    (∀ (c : Sym) (k : Nat), k ≤ 8 → a.toNat = 0x1000 + 16 * c.toNat + k → w = s.blk.lutWord c k) ∧
    (∀ (c : Sym) (k : Nat), 9 ≤ k → k ≤ 15 → a.toNat = 0x1000 + 16 * c.toNat + k → w = 0#32) ∧
    (∀ i : Idx, a.toNat = 0x2000 + i.toNat → w = s.blk.nodeWord i) ∧
    (0x0004 ≤ a.toNat ∧ a.toNat ≤ 0x0FFF ∨ 0x2200 ≤ a.toNat → w = 0#32)

/-- R37 with the two bits of R38: what a read of STATUS returns, bit by bit, and that a write of it is refused. (Its reset value, which
R37 marks as derived from R42, is in Obligations.PowerOnIsAReset.) -/
def Obligations.StatusIsAssembledBitByBit : Prop :=
  (∀ (s : State) (g : Word), ∃ w,
    exec (.cfgRd 0x0001#16 g) s = .next { s with cfgIn := s.cfgIn.tail, cfgOut := s.cfgOut ++ [w] } ∧
    (w.getLsbD 0 = true ↔ s.blk.mode = .run) ∧
    w.getLsbD 1 = s.blk.unk ∧
    w.getLsbD 2 = s.blk.trunc ∧
    w.getLsbD 3 = s.blk.cfgerr ∧
    (w.getLsbD 4 = true ↔ s.blk.valid s.blk.sent = true ∧ s.blk.len s.blk.sent = 0) ∧
    w.getLsbD 5 = s.blk.leaf s.blk.root ∧
    (w.getLsbD 6 = true ↔ s.blk.emode = .drain) ∧
    w.getLsbD 7 = false ∧
    (w.getLsbD 8 = true ↔ s.blk.dmode = .walk) ∧
    (w.getLsbD 9 = true ↔ s.blk.dmode = .skip) ∧
    ∀ j, 10 ≤ j → w.getLsbD j = false) ∧
  ∀ (s : State) (d : Word), exec (.cfgWrStatus d) s =
    .next { s with cfgIn := s.cfgIn.tail, blk := { s.blk with cfgerr := true } }

/-- A read returns what the latest write to that address left there, and a write leaves what other table addresses read as
(`20_memory.md` section 3, (a)). -/
def Obligations.ReadReturnsTheLatestWrite : Prop :=
  ∀ (s : State) (a b : Addr) (d : Word), s.blk.mode = .config → TablesWf s.blk →
    (isLutKey a.toNat = true ∨ isNodeKey a.toNat = true) → (isLutKey b.toNat = true ∨ isNodeKey b.toNat = true) →
    ∃ t, andThen (exec (wr a d) s) (exec (rd b)) = .next t ∧
      (b = a → t.cfgOut = s.cfgOut ++ [d]) ∧ (b ≠ a → t.cfgOut = s.cfgOut ++ [s.blk.cfgRead b])

/-- Frame of every CFG operation: it consumes its command, may answer, and writes only the register or the word it names; every other
word of both tables reads as before. -/
def Obligations.CfgOperationsFrame : Prop :=
  ∀ (s t : State) (i : Instr), tokenAgent (encode i) = .cfg → exec i s = .next t →
    t = { s with
      cfgIn := s.cfgIn.tail
      cfgOut := t.cfgOut
      blk := { s.blk with
        mode := t.blk.mode
        sent := t.blk.sent
        root := t.blk.root
        lutw := t.blk.lutw
        node := t.blk.node
        cfgerr := t.blk.cfgerr } } ∧
    ((∀ d, i ≠ .cfgWrCtrl d) → t.blk.mode = s.blk.mode) ∧
    ((∀ d, i ≠ .cfgWrSent d) → t.blk.sent = s.blk.sent) ∧
    ((∀ d, i ≠ .cfgWrRoot d) → t.blk.root = s.blk.root) ∧
    ((∀ a g, i ≠ .cfgRd a g) → t.cfgOut = s.cfgOut) ∧
    ∀ a, storedAddr i ≠ some a →
      t.blk.lutw.read a = s.blk.lutw.read a ∧ t.blk.node.read a = s.blk.node.read a

/-! ## Acceptance of stream tokens -/

/-- Acceptance, ENC_IN by R180 (`42_encoder_ops.md` section 1) and DEC_IN by R200 (`43_decoder_ops.md` section 1): in CONFIG a stream
token is held, nothing changes and it stays at the head of its port; in RUN it is accepted, for the decoder under WF_ROOT, without which
R215 (`43_decoder_ops.md` section 6) gives its steps no meaning. That a hold is answered as a next state with nothing changed is
DEDUCED, log entry 3. -/
def Obligations.StreamTokensHeldInConfigAcceptedInRun : Prop :=
  ∀ (s : State) (c : Sym) (b : Byte) (g : BitVec 8),
    (s.blk.mode = .config →
      exec (.encSym c) s = .next s ∧ exec (.encEom g) s = .next s ∧
      exec (.decByte b) s = .next s ∧ exec (.decEnd g) s = .next s) ∧
    (s.blk.mode = .run →
      (∃ t, exec (.encSym c) s = .next t ∧ t.encIn = s.encIn.tail) ∧
      (∃ t, exec (.encEom g) s = .next t ∧ t.encIn = s.encIn.tail) ∧
      ((s.blk.leaf s.blk.root = false ∨ s.blk.sym s.blk.root = s.blk.sent) →
        (∃ t, exec (.decByte b) s = .next t ∧ t.decIn = s.decIn.tail) ∧
        ∃ t, exec (.decEnd g) s = .next t ∧ t.decIn = s.decIn.tail))

/-! ## Encoder -/

/-- R181 read through the bits it stands for: push_bit appends one bit to the bits produced, and writes nothing but ACC, NB, OBUF. -/
def Obligations.PushBitAppendsOneBit : Prop :=
  ∀ (k : Block) (b : Bool),
    (k.pushBit b).pendingBits = k.pendingBits ++ [b] ∧
    k.pushBit b = { k with acc := (k.pushBit b).acc, nb := (k.pushBit b).nb, obuf := (k.pushBit b).obuf }

/-- The flush of R186 is `pack` of the bits produced (R101): zero padding below, no byte added on a byte boundary. -/
def Obligations.FlushIsPackOfTheBitsProduced : Prop :=
  ∀ k : Block, k.flushed = pack k.pendingBits

/-- After push_code(s) OBUF has grown by (NB + len(s)) div 8 bytes and NB is (NB + len(s)) mod 8 (`42_encoder_ops.md` section 2; the
spec derives it from R181). -/
def Obligations.PushCodeCounts : Prop :=
  ∀ (k : Block) (c : Sym),
    (k.pushCode c).nb.toNat = (k.nb.toNat + k.len c) % 8 ∧
    (k.pushCode c).obuf.length = k.obuf.length + (k.nb.toNat + k.len c) / 8

/-- R183: in RUN and NORMAL a symbol with an entry has its code appended to the bits produced; nothing is appended to ENC_OUT and
nothing but ACC, NB, OBUF changes. -/
def Obligations.SymbolIsEncoded : Prop :=
  (∀ c : Sym, decode (.encIn (0#1 ++ c)) = .encSym c) ∧
  ∀ (s : State) (c : Sym), s.blk.mode = .run → s.blk.emode = .normal → s.blk.valid c = true →
    ∃ t, exec (.encSym c) s = .next t ∧
      t = { s with
        encIn := s.encIn.tail
        blk := { s.blk with acc := t.blk.acc, nb := t.blk.nb, obuf := t.blk.obuf } } ∧
      t.blk = s.blk.pushCode c ∧
      t.blk.pendingBits = s.blk.pendingBits ++ s.blk.code c

/-- R184 with R235: a symbol without an entry drops the pending output, appends END_ERR(1, s), sets UNK and enters DRAIN. -/
def Obligations.UnknownSymbolFailsTheMessage : Prop :=
  ∀ (s : State) (c : Sym), s.blk.mode = .run → s.blk.emode = .normal → s.blk.valid c = false →
    exec (.encSym c) s =
      .next { s with
        encIn := s.encIn.tail
        encOut := s.encOut ++ [.endErr 1#4 c]
        blk := { s.blk with acc := 0#8, nb := 0#3, obuf := [], unk := true, emode := .drain } }

/-- R185 and R188: in DRAIN a SYM is consumed and nothing else; an EOM returns to NORMAL and appends nothing. -/
def Obligations.DrainIgnoresUntilEom : Prop :=
  ∀ s : State, s.blk.mode = .run → s.blk.emode = .drain →
    (∀ c, exec (.encSym c) s = .next { s with encIn := s.encIn.tail }) ∧
    ∀ g, exec (.encEom g) s = .next { s with encIn := s.encIn.tail, blk := { s.blk with emode := .normal } }

/-- R186: in RUN and NORMAL with a sentinel entry, EOM commits in one step: DATA for each byte of `pack` of the bits produced and the
sentinel's code, then END_OK; OBUF, ACC, NB are cleared, EMODE stays NORMAL, whatever the token's low 8 bits. -/
def Obligations.EomCommitsThePackedMessage : Prop :=
  (∀ g : BitVec 8, decode (.encIn (1#1 ++ g)) = .encEom g) ∧
  ∀ (s : State) (g : BitVec 8), s.blk.mode = .run → s.blk.emode = .normal → s.blk.valid s.blk.sent = true →
    exec (.encEom g) s =
      .next { s with
        encIn := s.encIn.tail
        encOut := s.encOut ++ ((pack (s.blk.pendingBits ++ s.blk.code s.blk.sent)).map OutToken.data ++ [.endOk])
        blk := { s.blk with acc := 0#8, nb := 0#3, obuf := [] } }

/-- R187: EOM without a sentinel entry reports UnknownSymbol(SENT) and leaves EMODE NORMAL. -/
def Obligations.EomWithoutSentinelEntryFails : Prop :=
  ∀ (s : State) (g : BitVec 8), s.blk.mode = .run → s.blk.emode = .normal → s.blk.valid s.blk.sent = false →
    exec (.encEom g) s =
      .next { s with
        encIn := s.encIn.tail
        encOut := s.encOut ++ [.endErr 1#4 s.blk.sent]
        blk := { s.blk with acc := 0#8, nb := 0#3, obuf := [], unk := true, emode := .normal } }

/-- Zero-length code (`42_encoder_ops.md` section 5): a symbol whose code is empty pushes nothing, and with nothing produced and an
empty sentinel code, EOM appends END_OK alone. -/
def Obligations.EmptyCodePushesNothing : Prop :=
  ∀ s : State, s.blk.mode = .run → s.blk.emode = .normal →
    (∀ c, s.blk.valid c = true → s.blk.len c = 0 → exec (.encSym c) s = .next { s with encIn := s.encIn.tail }) ∧
    (s.blk.degenE = true → s.blk.acc = 0#8 → s.blk.nb = 0#3 → s.blk.obuf = [] →
      ∀ g, exec (.encEom g) s = .next { s with encIn := s.encIn.tail, encOut := s.encOut ++ [.endOk] })

/-- Frame of ENC.SYM and ENC.EOM (`42_encoder_ops.md` section 6, `20_memory.md` section 3 (c)): only ENC_IN, ENC_OUT, ACC, NB, OBUF,
EMODE and UNK may change; every table word reads as before. -/
def Obligations.EncoderFrame : Prop :=
  ∀ (s t : State) (i : Instr), ((∃ c, i = .encSym c) ∨ ∃ g, i = .encEom g) → exec i s = .next t →
    t = { s with
      encIn := t.encIn
      encOut := t.encOut
      blk := { s.blk with
        acc := t.blk.acc
        nb := t.blk.nb
        obuf := t.blk.obuf
        emode := t.blk.emode
        unk := t.blk.unk } } ∧
    (t.encIn = s.encIn ∨ t.encIn = s.encIn.tail) ∧
    ∀ a, t.blk.lutw.read a = s.blk.lutw.read a ∧ t.blk.node.read a = s.blk.node.read a

/-- `compress` (R191, which the spec derives by induction over the tokens): a message presented to an idle encoder appends exactly its
one result and leaves the encoder idle, with UNK set if it failed; nothing else changes. -/
def Obligations.MessageYieldsItsOneResult : Prop :=
  ∀ (s : State) (m : List Sym) (g : BitVec 8), s.blk.mode = .run → s.blk.emode = .normal → s.blk.nb = 0#3 →
    s.blk.acc = 0#8 → s.blk.obuf = [] →
    execAll (messageOps m g) s =
      .next { s with
        encIn := s.encIn.drop (m.length + 1)
        encOut := s.encOut ++ s.blk.compress m
        blk := { s.blk with unk := s.blk.unk || (m ++ [s.blk.sent]).any fun c => !s.blk.valid c } }

/-- R102: `unpack` gives the bits of each byte most significant first, and `unpack(pack(Q))` is Q followed by
(8 - n mod 8) mod 8 zero bits. -/
def Obligations.UnpackOfPackPadsWithZeros : Prop :=
  (∀ ys : List Byte, (unpack ys).length = 8 * ys.length) ∧
  (∀ (ys : List Byte) (j : Nat) (y : Byte) (i : Nat), ys[j]? = some y → i ≤ 7 →
    (unpack ys)[8 * j + i]? = some (y.getLsbD (7 - i))) ∧
  unpack [] = [] ∧
  ∀ q : Bits, unpack (pack q) = q ++ List.replicate ((8 - q.length % 8) % 8) false

/-! ## Decoder -/

/-- R203: in RUN and IDLE with an internal root, BYTE starts a frame at ROOT with DBUF empty and walks its bits, bit 7 first. -/
def Obligations.ByteStartsAFrame : Prop :=
  (∀ b : Byte, decode (.decIn (0#1 ++ b)) = .decByte b) ∧
  ∀ (s : State) (b : Byte), s.blk.mode = .run → s.blk.dmode = .idle → s.blk.leaf s.blk.root = false →
    exec (.decByte b) s =
      .next { s with
        decIn := s.decIn.tail
        decOut := s.decOut ++ ({ s.blk with cur := s.blk.root, dbuf := [], dmode := .walk }.walkBits (unpack [b])).2
        blk := ({ s.blk with cur := s.blk.root, dbuf := [], dmode := .walk }.walkBits (unpack [b])).1 }

/-- The walk (R201, R202, R206) against the loop the spec writes for `decompress` (R212): walking bits in WALK either reaches the
sentinel, commits the whole result and goes to SKIP, or leaves exactly the loop's state for the bits still to come. -/
def Obligations.WalkFollowsTheDecompressLoop : Prop :=
  ∀ (k : Block) (bs : Bits), k.dmode = .walk →
    (∃ out, k.decodeBits k.cur k.dbuf bs = some out ∧ (k.walkBits bs).2 = out.map OutToken.data ++ [.endOk] ∧
      (k.walkBits bs).1.dmode = .skip ∧ (k.walkBits bs).1.dbuf = []) ∨
    ((k.walkBits bs).2 = [] ∧ (k.walkBits bs).1.dmode = .walk ∧
      ∀ rest, k.decodeBits k.cur k.dbuf (bs ++ rest) =
        k.decodeBits (k.walkBits bs).1.cur (k.walkBits bs).1.dbuf rest)

/-- R205: in RUN and WALK, under WF_ROOT, BYTE walks its bits from where the walk stands, bit 7 first. -/
def Obligations.ByteContinuesTheFrame : Prop :=
  ∀ (s : State) (b : Byte), s.blk.mode = .run → s.blk.dmode = .walk →
    (s.blk.leaf s.blk.root = false ∨ s.blk.sym s.blk.root = s.blk.sent) →
    exec (.decByte b) s =
      .next { s with
        decIn := s.decIn.tail
        decOut := s.decOut ++ (s.blk.walkBits (unpack [b])).2
        blk := (s.blk.walkBits (unpack [b])).1 }

/-- R207 and R210: after the sentinel, under WF_ROOT, BYTE is consumed and nothing else; END returns to IDLE and appends nothing. -/
def Obligations.AfterTheSentinelTheFrameIsIgnored : Prop :=
  ∀ s : State, s.blk.mode = .run → s.blk.dmode = .skip →
    (s.blk.leaf s.blk.root = false ∨ s.blk.sym s.blk.root = s.blk.sent) →
    (∀ b, exec (.decByte b) s = .next { s with decIn := s.decIn.tail }) ∧
    ∀ g, exec (.decEnd g) s = .next { s with decIn := s.decIn.tail, blk := { s.blk with dmode := .idle } }

/-- R204: at the start of a frame with a leaf root, the first token gives the empty message at once; BYTE goes to SKIP, END stays in
IDLE; CUR and DBUF are not touched. -/
def Obligations.LeafRootGivesTheEmptyMessage : Prop :=
  ∀ s : State, s.blk.mode = .run → s.blk.dmode = .idle → s.blk.leaf s.blk.root = true →
    s.blk.sym s.blk.root = s.blk.sent →
    (∀ b, exec (.decByte b) s =
      .next { s with
        decIn := s.decIn.tail
        decOut := s.decOut ++ [.endOk]
        blk := { s.blk with dmode := .skip } }) ∧
    ∀ g, exec (.decEnd g) s = .next { s with decIn := s.decIn.tail, decOut := s.decOut ++ [.endOk] }

/-- R208 and R209: END without a sentinel reached, at the start of a frame with an internal root or inside a frame (under WF_ROOT),
empties DBUF, appends END_ERR(2, 0), sets TRUNC and leaves IDLE. -/
def Obligations.EndWithoutSentinelIsTruncatedInput : Prop :=
  (∀ g : BitVec 8, decode (.decIn (1#1 ++ g)) = .decEnd g) ∧
  ∀ (s : State) (g : BitVec 8), s.blk.mode = .run →
    ((s.blk.dmode = .idle ∧ s.blk.leaf s.blk.root = false) ∨
      (s.blk.dmode = .walk ∧ (s.blk.leaf s.blk.root = false ∨ s.blk.sym s.blk.root = s.blk.sent))) →
    exec (.decEnd g) s =
      .next { s with
        decIn := s.decIn.tail
        decOut := s.decOut ++ [.endErr 2#4 0#8]
        blk := { s.blk with dbuf := [], trunc := true, dmode := .idle } }

/-- R215: a decoder step in RUN with a leaf root whose symbol is not SENT is refused; with WF_ROOT every decoder
step completes, for any other table contents. -/
def Obligations.LeafRootWithoutSentinelIsRefused : Prop :=
  ∀ (s : State) (b : Byte) (g : BitVec 8), s.blk.mode = .run →
    (s.blk.leaf s.blk.root = true → s.blk.sym s.blk.root ≠ s.blk.sent →
      exec (.decByte b) s = .refused .rootNotWf ∧ exec (.decEnd g) s = .refused .rootNotWf) ∧
    ((s.blk.leaf s.blk.root = false ∨ s.blk.sym s.blk.root = s.blk.sent) →
      (∃ t, exec (.decByte b) s = .next t) ∧ ∃ t, exec (.decEnd g) s = .next t)

/-- Frame of DEC.BYTE and DEC.END (`43_decoder_ops.md` section 6, `20_memory.md` section 3 (c)): only DEC_IN, DEC_OUT, CUR, DBUF, DMODE
and TRUNC may change; every table word reads as before. -/
def Obligations.DecoderFrame : Prop :=
  ∀ (s t : State) (i : Instr), ((∃ b, i = .decByte b) ∨ ∃ g, i = .decEnd g) → exec i s = .next t →
    t = { s with
      decIn := t.decIn
      decOut := t.decOut
      blk := { s.blk with
        cur := t.blk.cur
        dbuf := t.blk.dbuf
        dmode := t.blk.dmode
        trunc := t.blk.trunc } } ∧
    (t.decIn = s.decIn ∨ t.decIn = s.decIn.tail) ∧
    ∀ a, t.blk.lutw.read a = s.blk.lutw.read a ∧ t.blk.node.read a = s.blk.node.read a

/-- `decompress` (R212, which the spec derives by induction over the tokens): a frame presented to an idle decoder appends exactly its
one result and leaves the decoder idle, with TRUNC set if it failed; nothing else changes but CUR, which has no meaning in IDLE. -/
def Obligations.FrameYieldsItsOneResult : Prop :=
  ∀ (s : State) (ys : List Byte) (g : BitVec 8), s.blk.mode = .run → s.blk.dmode = .idle → s.blk.dbuf = [] →
    (s.blk.leaf s.blk.root = false ∨ s.blk.sym s.blk.root = s.blk.sent) →
    ∃ cur, execAll (frameOps ys g) s =
      .next { s with
        decIn := s.decIn.drop (ys.length + 1)
        decOut := s.decOut ++ s.blk.decompress ys
        blk := { s.blk with
          cur := cur
          trunc := s.blk.trunc || decide (s.blk.decompress ys = [.endErr 2#4 0#8]) } }

/-- Round trip (R213, which the spec derives): with CONSISTENT tables, a message of symbols with entries and without SENT, compressed
and then decompressed on the same instance, comes back as it was. -/
def Obligations.RoundTripGivesTheMessageBack : Prop :=
  ∀ (s : State) (m : List Sym) (g g' : BitVec 8), Consistent s.blk → s.blk.mode = .run → s.blk.emode = .normal →
    s.blk.nb = 0#3 → s.blk.acc = 0#8 → s.blk.obuf = [] → s.blk.dmode = .idle → s.blk.dbuf = [] →
    (∀ c ∈ m, s.blk.valid c = true ∧ c ≠ s.blk.sent) →
    ∃ (t u : State) (ys : List Byte),
      execAll (messageOps m g) s = .next t ∧ t.encOut = s.encOut ++ (ys.map OutToken.data ++ [.endOk]) ∧
      execAll (frameOps ys g') t = .next u ∧ u.decOut = s.decOut ++ (m.map OutToken.data ++ [.endOk])

/-- ENC steps and DEC steps commute (`20_memory.md` section 3 (c)): either order gives the same outcome. -/
def Obligations.EncoderAndDecoderStepsCommute : Prop :=
  ∀ (s : State) (i j : Instr), isEnc i = true → isDec j = true →
    andThen (exec i s) (exec j) = andThen (exec j s) (exec i)

/-! ## Open parameters -/

/-- With a finite OBUF_CAP or DBUF_CAP a step that would exceed it is refused and one that fits is as under the defaults
(`20_memory.md` section 2); with EMPTY_IS_OK the empty frame returns the empty message (`93_implementation_defined.md` U1). -/
def Obligations.FiniteCapacitiesRefuse : Prop :=
  ∀ (p : Config.Params) (s : State), s.blk.mode = .run →
    (∀ c n, s.blk.emode = .normal → s.blk.valid c = true → p.obufCap = some n →
      encSymWith p c s =
        if (s.blk.pushCode c).obuf.length ≤ n then exec (.encSym c) s else .refused .obufOverCap) ∧
    (∀ g n, s.blk.emode = .normal → s.blk.valid s.blk.sent = true → p.obufCap = some n →
      encEomWith p s =
        if (s.blk.pushCode s.blk.sent).flushed.length ≤ n then exec (.encEom g) s else .refused .obufOverCap) ∧
    (∀ b n, s.blk.leaf s.blk.root = false → s.blk.dmode = .walk → p.dbufCap = some n →
      decByteWith p b s =
        if dbufPeak (s.blk.walkByte b).1 (s.blk.walkByte b).2 ≤ n then exec (.decByte b) s
        else .refused .dbufOverCap) ∧
    (∀ b n, s.blk.leaf s.blk.root = false → s.blk.dmode = .idle → p.dbufCap = some n →
      decByteWith p b s =
        if dbufPeak (s.blk.startFrame.walkByte b).1 (s.blk.startFrame.walkByte b).2 ≤ n then exec (.decByte b) s
        else .refused .dbufOverCap) ∧
    (s.blk.leaf s.blk.root = false → s.blk.dmode = .idle → p.emptyIsOk = true →
      decEndWith p s = .next { s with decIn := s.decIn.tail, decOut := s.decOut ++ [.endOk] })

/-! ## The host's construction (`40_table_construction.md`; host software, not hardware) -/

/-- R131 to R133: every occurrence counts one, the sentinel's weight is 1 whatever its natural count, and the empty corpus yields the
sentinel alone. -/
def Obligations.HistogramCountsAndForcesTheSentinel : Prop :=
  (∀ (corpus : List Sym) (sentinel c : Sym),
    (histogram corpus sentinel).weight c = if c = sentinel then 1 else corpus.count c) ∧
  (∀ (corpus : List Sym) (sentinel c : Sym),
    c ∈ (histogram corpus sentinel).map Prod.fst ↔ c = sentinel ∨ c ∈ corpus) ∧
  ∀ sentinel : Sym, histogram [] sentinel = [(sentinel, 1)]

/-- `40_table_construction.md` section 4 (a) and the first equality of (c): the construction always yields a trie, with exactly one leaf
per histogram entry, and the root's weight is the sum of the leaves' weights. -/
def Obligations.TrieHasOneLeafPerEntryAndTheirWeight : Prop :=
  ∀ (corpus : List Sym) (sentinel : Sym), ∃ t, buildTrie (histogram corpus sentinel) = some t ∧
    t.leaves.Perm (histogram corpus sentinel) ∧
    t.weight = ((histogram corpus sentinel).map Prod.snd).sum

/-- `40_table_construction.md` section 4 (b): codes are prefix-free. -/
def Obligations.ConstructedCodesArePrefixFree : Prop :=
  ∀ (t : Trie) (e f : Sym × Bits), e ∈ t.codes → f ∈ t.codes → e.1 ≠ f.1 → ¬ e.2 <+: f.2

/-- `40_table_construction.md` section 5, limits: a constructed trie has at most 511 nodes, so its root's index is at most 510, and no
code is longer than MAXLEN = 255. -/
def Obligations.ConstructedTrieFitsTheTables : Prop :=
  ∀ (corpus : List Sym) (sentinel : Sym) (t : Trie), buildTrie (histogram corpus sentinel) = some t →
    t.idx ≤ 510 ∧ t.leaves.length ≤ 256 ∧ ∀ e ∈ t.codes, e.2.length ≤ 255

end
end

