-- ==== Sys2Proof/Laws/State.lean ====
section
/-! SUPPORT. One lemma per field per update of the state, all true by unfolding, for simp. -/

namespace Sys2Proof.Machine

section
variable (k : Block)

@[simp] theorem Block.setMode_mode (v : Mode) : (k.setMode v).mode = v := rfl
@[simp] theorem Block.setMode_sent (v : Mode) : (k.setMode v).sent = k.sent := rfl
@[simp] theorem Block.setMode_root (v : Mode) : (k.setMode v).root = k.root := rfl
@[simp] theorem Block.setMode_lutw (v : Mode) : (k.setMode v).lutw = k.lutw := rfl
@[simp] theorem Block.setMode_node (v : Mode) : (k.setMode v).node = k.node := rfl
@[simp] theorem Block.setMode_unk (v : Mode) : (k.setMode v).unk = k.unk := rfl
@[simp] theorem Block.setMode_trunc (v : Mode) : (k.setMode v).trunc = k.trunc := rfl
@[simp] theorem Block.setMode_cfgerr (v : Mode) : (k.setMode v).cfgerr = k.cfgerr := rfl
@[simp] theorem Block.setMode_acc (v : Mode) : (k.setMode v).acc = k.acc := rfl
@[simp] theorem Block.setMode_nb (v : Mode) : (k.setMode v).nb = k.nb := rfl
@[simp] theorem Block.setMode_obuf (v : Mode) : (k.setMode v).obuf = k.obuf := rfl
@[simp] theorem Block.setMode_emode (v : Mode) : (k.setMode v).emode = k.emode := rfl
@[simp] theorem Block.setMode_cur (v : Mode) : (k.setMode v).cur = k.cur := rfl
@[simp] theorem Block.setMode_dbuf (v : Mode) : (k.setMode v).dbuf = k.dbuf := rfl
@[simp] theorem Block.setMode_dmode (v : Mode) : (k.setMode v).dmode = k.dmode := rfl

@[simp] theorem Block.setSent_mode (v : Sym) : (k.setSent v).mode = k.mode := rfl
@[simp] theorem Block.setSent_sent (v : Sym) : (k.setSent v).sent = v := rfl
@[simp] theorem Block.setSent_root (v : Sym) : (k.setSent v).root = k.root := rfl
@[simp] theorem Block.setSent_lutw (v : Sym) : (k.setSent v).lutw = k.lutw := rfl
@[simp] theorem Block.setSent_node (v : Sym) : (k.setSent v).node = k.node := rfl
@[simp] theorem Block.setSent_unk (v : Sym) : (k.setSent v).unk = k.unk := rfl
@[simp] theorem Block.setSent_trunc (v : Sym) : (k.setSent v).trunc = k.trunc := rfl
@[simp] theorem Block.setSent_cfgerr (v : Sym) : (k.setSent v).cfgerr = k.cfgerr := rfl
@[simp] theorem Block.setSent_acc (v : Sym) : (k.setSent v).acc = k.acc := rfl
@[simp] theorem Block.setSent_nb (v : Sym) : (k.setSent v).nb = k.nb := rfl
@[simp] theorem Block.setSent_obuf (v : Sym) : (k.setSent v).obuf = k.obuf := rfl
@[simp] theorem Block.setSent_emode (v : Sym) : (k.setSent v).emode = k.emode := rfl
@[simp] theorem Block.setSent_cur (v : Sym) : (k.setSent v).cur = k.cur := rfl
@[simp] theorem Block.setSent_dbuf (v : Sym) : (k.setSent v).dbuf = k.dbuf := rfl
@[simp] theorem Block.setSent_dmode (v : Sym) : (k.setSent v).dmode = k.dmode := rfl

@[simp] theorem Block.setRoot_mode (v : Idx) : (k.setRoot v).mode = k.mode := rfl
@[simp] theorem Block.setRoot_sent (v : Idx) : (k.setRoot v).sent = k.sent := rfl
@[simp] theorem Block.setRoot_root (v : Idx) : (k.setRoot v).root = v := rfl
@[simp] theorem Block.setRoot_lutw (v : Idx) : (k.setRoot v).lutw = k.lutw := rfl
@[simp] theorem Block.setRoot_node (v : Idx) : (k.setRoot v).node = k.node := rfl
@[simp] theorem Block.setRoot_unk (v : Idx) : (k.setRoot v).unk = k.unk := rfl
@[simp] theorem Block.setRoot_trunc (v : Idx) : (k.setRoot v).trunc = k.trunc := rfl
@[simp] theorem Block.setRoot_cfgerr (v : Idx) : (k.setRoot v).cfgerr = k.cfgerr := rfl
@[simp] theorem Block.setRoot_acc (v : Idx) : (k.setRoot v).acc = k.acc := rfl
@[simp] theorem Block.setRoot_nb (v : Idx) : (k.setRoot v).nb = k.nb := rfl
@[simp] theorem Block.setRoot_obuf (v : Idx) : (k.setRoot v).obuf = k.obuf := rfl
@[simp] theorem Block.setRoot_emode (v : Idx) : (k.setRoot v).emode = k.emode := rfl
@[simp] theorem Block.setRoot_cur (v : Idx) : (k.setRoot v).cur = k.cur := rfl
@[simp] theorem Block.setRoot_dbuf (v : Idx) : (k.setRoot v).dbuf = k.dbuf := rfl
@[simp] theorem Block.setRoot_dmode (v : Idx) : (k.setRoot v).dmode = k.dmode := rfl

@[simp] theorem Block.setLutw_mode (c : Sym) (i : Nat) (v : Word) : (k.setLutw c i v).mode = k.mode := rfl
@[simp] theorem Block.setLutw_sent (c : Sym) (i : Nat) (v : Word) : (k.setLutw c i v).sent = k.sent := rfl
@[simp] theorem Block.setLutw_root (c : Sym) (i : Nat) (v : Word) : (k.setLutw c i v).root = k.root := rfl
@[simp] theorem Block.setLutw_lutw (c : Sym) (i : Nat) (v : Word) : (k.setLutw c i v).lutw = k.lutw.write (lutKey c i) v := rfl
@[simp] theorem Block.setLutw_node (c : Sym) (i : Nat) (v : Word) : (k.setLutw c i v).node = k.node := rfl
@[simp] theorem Block.setLutw_unk (c : Sym) (i : Nat) (v : Word) : (k.setLutw c i v).unk = k.unk := rfl
@[simp] theorem Block.setLutw_trunc (c : Sym) (i : Nat) (v : Word) : (k.setLutw c i v).trunc = k.trunc := rfl
@[simp] theorem Block.setLutw_cfgerr (c : Sym) (i : Nat) (v : Word) : (k.setLutw c i v).cfgerr = k.cfgerr := rfl
@[simp] theorem Block.setLutw_acc (c : Sym) (i : Nat) (v : Word) : (k.setLutw c i v).acc = k.acc := rfl
@[simp] theorem Block.setLutw_nb (c : Sym) (i : Nat) (v : Word) : (k.setLutw c i v).nb = k.nb := rfl
@[simp] theorem Block.setLutw_obuf (c : Sym) (i : Nat) (v : Word) : (k.setLutw c i v).obuf = k.obuf := rfl
@[simp] theorem Block.setLutw_emode (c : Sym) (i : Nat) (v : Word) : (k.setLutw c i v).emode = k.emode := rfl
@[simp] theorem Block.setLutw_cur (c : Sym) (i : Nat) (v : Word) : (k.setLutw c i v).cur = k.cur := rfl
@[simp] theorem Block.setLutw_dbuf (c : Sym) (i : Nat) (v : Word) : (k.setLutw c i v).dbuf = k.dbuf := rfl
@[simp] theorem Block.setLutw_dmode (c : Sym) (i : Nat) (v : Word) : (k.setLutw c i v).dmode = k.dmode := rfl

@[simp] theorem Block.setNode_mode (i : Idx) (v : Word) : (k.setNode i v).mode = k.mode := rfl
@[simp] theorem Block.setNode_sent (i : Idx) (v : Word) : (k.setNode i v).sent = k.sent := rfl
@[simp] theorem Block.setNode_root (i : Idx) (v : Word) : (k.setNode i v).root = k.root := rfl
@[simp] theorem Block.setNode_lutw (i : Idx) (v : Word) : (k.setNode i v).lutw = k.lutw := rfl
@[simp] theorem Block.setNode_node (i : Idx) (v : Word) : (k.setNode i v).node = k.node.write (nodeKey i) v := rfl
@[simp] theorem Block.setNode_unk (i : Idx) (v : Word) : (k.setNode i v).unk = k.unk := rfl
@[simp] theorem Block.setNode_trunc (i : Idx) (v : Word) : (k.setNode i v).trunc = k.trunc := rfl
@[simp] theorem Block.setNode_cfgerr (i : Idx) (v : Word) : (k.setNode i v).cfgerr = k.cfgerr := rfl
@[simp] theorem Block.setNode_acc (i : Idx) (v : Word) : (k.setNode i v).acc = k.acc := rfl
@[simp] theorem Block.setNode_nb (i : Idx) (v : Word) : (k.setNode i v).nb = k.nb := rfl
@[simp] theorem Block.setNode_obuf (i : Idx) (v : Word) : (k.setNode i v).obuf = k.obuf := rfl
@[simp] theorem Block.setNode_emode (i : Idx) (v : Word) : (k.setNode i v).emode = k.emode := rfl
@[simp] theorem Block.setNode_cur (i : Idx) (v : Word) : (k.setNode i v).cur = k.cur := rfl
@[simp] theorem Block.setNode_dbuf (i : Idx) (v : Word) : (k.setNode i v).dbuf = k.dbuf := rfl
@[simp] theorem Block.setNode_dmode (i : Idx) (v : Word) : (k.setNode i v).dmode = k.dmode := rfl

@[simp] theorem Block.setUnk_mode : (k.setUnk).mode = k.mode := rfl
@[simp] theorem Block.setUnk_sent : (k.setUnk).sent = k.sent := rfl
@[simp] theorem Block.setUnk_root : (k.setUnk).root = k.root := rfl
@[simp] theorem Block.setUnk_lutw : (k.setUnk).lutw = k.lutw := rfl
@[simp] theorem Block.setUnk_node : (k.setUnk).node = k.node := rfl
@[simp] theorem Block.setUnk_unk : (k.setUnk).unk = true := rfl
@[simp] theorem Block.setUnk_trunc : (k.setUnk).trunc = k.trunc := rfl
@[simp] theorem Block.setUnk_cfgerr : (k.setUnk).cfgerr = k.cfgerr := rfl
@[simp] theorem Block.setUnk_acc : (k.setUnk).acc = k.acc := rfl
@[simp] theorem Block.setUnk_nb : (k.setUnk).nb = k.nb := rfl
@[simp] theorem Block.setUnk_obuf : (k.setUnk).obuf = k.obuf := rfl
@[simp] theorem Block.setUnk_emode : (k.setUnk).emode = k.emode := rfl
@[simp] theorem Block.setUnk_cur : (k.setUnk).cur = k.cur := rfl
@[simp] theorem Block.setUnk_dbuf : (k.setUnk).dbuf = k.dbuf := rfl
@[simp] theorem Block.setUnk_dmode : (k.setUnk).dmode = k.dmode := rfl

@[simp] theorem Block.setTrunc_mode : (k.setTrunc).mode = k.mode := rfl
@[simp] theorem Block.setTrunc_sent : (k.setTrunc).sent = k.sent := rfl
@[simp] theorem Block.setTrunc_root : (k.setTrunc).root = k.root := rfl
@[simp] theorem Block.setTrunc_lutw : (k.setTrunc).lutw = k.lutw := rfl
@[simp] theorem Block.setTrunc_node : (k.setTrunc).node = k.node := rfl
@[simp] theorem Block.setTrunc_unk : (k.setTrunc).unk = k.unk := rfl
@[simp] theorem Block.setTrunc_trunc : (k.setTrunc).trunc = true := rfl
@[simp] theorem Block.setTrunc_cfgerr : (k.setTrunc).cfgerr = k.cfgerr := rfl
@[simp] theorem Block.setTrunc_acc : (k.setTrunc).acc = k.acc := rfl
@[simp] theorem Block.setTrunc_nb : (k.setTrunc).nb = k.nb := rfl
@[simp] theorem Block.setTrunc_obuf : (k.setTrunc).obuf = k.obuf := rfl
@[simp] theorem Block.setTrunc_emode : (k.setTrunc).emode = k.emode := rfl
@[simp] theorem Block.setTrunc_cur : (k.setTrunc).cur = k.cur := rfl
@[simp] theorem Block.setTrunc_dbuf : (k.setTrunc).dbuf = k.dbuf := rfl
@[simp] theorem Block.setTrunc_dmode : (k.setTrunc).dmode = k.dmode := rfl

@[simp] theorem Block.setCfgerr_mode : (k.setCfgerr).mode = k.mode := rfl
@[simp] theorem Block.setCfgerr_sent : (k.setCfgerr).sent = k.sent := rfl
@[simp] theorem Block.setCfgerr_root : (k.setCfgerr).root = k.root := rfl
@[simp] theorem Block.setCfgerr_lutw : (k.setCfgerr).lutw = k.lutw := rfl
@[simp] theorem Block.setCfgerr_node : (k.setCfgerr).node = k.node := rfl
@[simp] theorem Block.setCfgerr_unk : (k.setCfgerr).unk = k.unk := rfl
@[simp] theorem Block.setCfgerr_trunc : (k.setCfgerr).trunc = k.trunc := rfl
@[simp] theorem Block.setCfgerr_cfgerr : (k.setCfgerr).cfgerr = true := rfl
@[simp] theorem Block.setCfgerr_acc : (k.setCfgerr).acc = k.acc := rfl
@[simp] theorem Block.setCfgerr_nb : (k.setCfgerr).nb = k.nb := rfl
@[simp] theorem Block.setCfgerr_obuf : (k.setCfgerr).obuf = k.obuf := rfl
@[simp] theorem Block.setCfgerr_emode : (k.setCfgerr).emode = k.emode := rfl
@[simp] theorem Block.setCfgerr_cur : (k.setCfgerr).cur = k.cur := rfl
@[simp] theorem Block.setCfgerr_dbuf : (k.setCfgerr).dbuf = k.dbuf := rfl
@[simp] theorem Block.setCfgerr_dmode : (k.setCfgerr).dmode = k.dmode := rfl

@[simp] theorem Block.setPacker_mode (a : BitVec 8) (n : BitVec 3) (o : List Byte) : (k.setPacker a n o).mode = k.mode := rfl
@[simp] theorem Block.setPacker_sent (a : BitVec 8) (n : BitVec 3) (o : List Byte) : (k.setPacker a n o).sent = k.sent := rfl
@[simp] theorem Block.setPacker_root (a : BitVec 8) (n : BitVec 3) (o : List Byte) : (k.setPacker a n o).root = k.root := rfl
@[simp] theorem Block.setPacker_lutw (a : BitVec 8) (n : BitVec 3) (o : List Byte) : (k.setPacker a n o).lutw = k.lutw := rfl
@[simp] theorem Block.setPacker_node (a : BitVec 8) (n : BitVec 3) (o : List Byte) : (k.setPacker a n o).node = k.node := rfl
@[simp] theorem Block.setPacker_unk (a : BitVec 8) (n : BitVec 3) (o : List Byte) : (k.setPacker a n o).unk = k.unk := rfl
@[simp] theorem Block.setPacker_trunc (a : BitVec 8) (n : BitVec 3) (o : List Byte) : (k.setPacker a n o).trunc = k.trunc := rfl
@[simp] theorem Block.setPacker_cfgerr (a : BitVec 8) (n : BitVec 3) (o : List Byte) : (k.setPacker a n o).cfgerr = k.cfgerr := rfl
@[simp] theorem Block.setPacker_acc (a : BitVec 8) (n : BitVec 3) (o : List Byte) : (k.setPacker a n o).acc = a := rfl
@[simp] theorem Block.setPacker_nb (a : BitVec 8) (n : BitVec 3) (o : List Byte) : (k.setPacker a n o).nb = n := rfl
@[simp] theorem Block.setPacker_obuf (a : BitVec 8) (n : BitVec 3) (o : List Byte) : (k.setPacker a n o).obuf = o := rfl
@[simp] theorem Block.setPacker_emode (a : BitVec 8) (n : BitVec 3) (o : List Byte) : (k.setPacker a n o).emode = k.emode := rfl
@[simp] theorem Block.setPacker_cur (a : BitVec 8) (n : BitVec 3) (o : List Byte) : (k.setPacker a n o).cur = k.cur := rfl
@[simp] theorem Block.setPacker_dbuf (a : BitVec 8) (n : BitVec 3) (o : List Byte) : (k.setPacker a n o).dbuf = k.dbuf := rfl
@[simp] theorem Block.setPacker_dmode (a : BitVec 8) (n : BitVec 3) (o : List Byte) : (k.setPacker a n o).dmode = k.dmode := rfl

@[simp] theorem Block.setEmode_mode (v : EMode) : (k.setEmode v).mode = k.mode := rfl
@[simp] theorem Block.setEmode_sent (v : EMode) : (k.setEmode v).sent = k.sent := rfl
@[simp] theorem Block.setEmode_root (v : EMode) : (k.setEmode v).root = k.root := rfl
@[simp] theorem Block.setEmode_lutw (v : EMode) : (k.setEmode v).lutw = k.lutw := rfl
@[simp] theorem Block.setEmode_node (v : EMode) : (k.setEmode v).node = k.node := rfl
@[simp] theorem Block.setEmode_unk (v : EMode) : (k.setEmode v).unk = k.unk := rfl
@[simp] theorem Block.setEmode_trunc (v : EMode) : (k.setEmode v).trunc = k.trunc := rfl
@[simp] theorem Block.setEmode_cfgerr (v : EMode) : (k.setEmode v).cfgerr = k.cfgerr := rfl
@[simp] theorem Block.setEmode_acc (v : EMode) : (k.setEmode v).acc = k.acc := rfl
@[simp] theorem Block.setEmode_nb (v : EMode) : (k.setEmode v).nb = k.nb := rfl
@[simp] theorem Block.setEmode_obuf (v : EMode) : (k.setEmode v).obuf = k.obuf := rfl
@[simp] theorem Block.setEmode_emode (v : EMode) : (k.setEmode v).emode = v := rfl
@[simp] theorem Block.setEmode_cur (v : EMode) : (k.setEmode v).cur = k.cur := rfl
@[simp] theorem Block.setEmode_dbuf (v : EMode) : (k.setEmode v).dbuf = k.dbuf := rfl
@[simp] theorem Block.setEmode_dmode (v : EMode) : (k.setEmode v).dmode = k.dmode := rfl

@[simp] theorem Block.setCur_mode (v : Idx) : (k.setCur v).mode = k.mode := rfl
@[simp] theorem Block.setCur_sent (v : Idx) : (k.setCur v).sent = k.sent := rfl
@[simp] theorem Block.setCur_root (v : Idx) : (k.setCur v).root = k.root := rfl
@[simp] theorem Block.setCur_lutw (v : Idx) : (k.setCur v).lutw = k.lutw := rfl
@[simp] theorem Block.setCur_node (v : Idx) : (k.setCur v).node = k.node := rfl
@[simp] theorem Block.setCur_unk (v : Idx) : (k.setCur v).unk = k.unk := rfl
@[simp] theorem Block.setCur_trunc (v : Idx) : (k.setCur v).trunc = k.trunc := rfl
@[simp] theorem Block.setCur_cfgerr (v : Idx) : (k.setCur v).cfgerr = k.cfgerr := rfl
@[simp] theorem Block.setCur_acc (v : Idx) : (k.setCur v).acc = k.acc := rfl
@[simp] theorem Block.setCur_nb (v : Idx) : (k.setCur v).nb = k.nb := rfl
@[simp] theorem Block.setCur_obuf (v : Idx) : (k.setCur v).obuf = k.obuf := rfl
@[simp] theorem Block.setCur_emode (v : Idx) : (k.setCur v).emode = k.emode := rfl
@[simp] theorem Block.setCur_cur (v : Idx) : (k.setCur v).cur = v := rfl
@[simp] theorem Block.setCur_dbuf (v : Idx) : (k.setCur v).dbuf = k.dbuf := rfl
@[simp] theorem Block.setCur_dmode (v : Idx) : (k.setCur v).dmode = k.dmode := rfl

@[simp] theorem Block.setDbuf_mode (v : List Sym) : (k.setDbuf v).mode = k.mode := rfl
@[simp] theorem Block.setDbuf_sent (v : List Sym) : (k.setDbuf v).sent = k.sent := rfl
@[simp] theorem Block.setDbuf_root (v : List Sym) : (k.setDbuf v).root = k.root := rfl
@[simp] theorem Block.setDbuf_lutw (v : List Sym) : (k.setDbuf v).lutw = k.lutw := rfl
@[simp] theorem Block.setDbuf_node (v : List Sym) : (k.setDbuf v).node = k.node := rfl
@[simp] theorem Block.setDbuf_unk (v : List Sym) : (k.setDbuf v).unk = k.unk := rfl
@[simp] theorem Block.setDbuf_trunc (v : List Sym) : (k.setDbuf v).trunc = k.trunc := rfl
@[simp] theorem Block.setDbuf_cfgerr (v : List Sym) : (k.setDbuf v).cfgerr = k.cfgerr := rfl
@[simp] theorem Block.setDbuf_acc (v : List Sym) : (k.setDbuf v).acc = k.acc := rfl
@[simp] theorem Block.setDbuf_nb (v : List Sym) : (k.setDbuf v).nb = k.nb := rfl
@[simp] theorem Block.setDbuf_obuf (v : List Sym) : (k.setDbuf v).obuf = k.obuf := rfl
@[simp] theorem Block.setDbuf_emode (v : List Sym) : (k.setDbuf v).emode = k.emode := rfl
@[simp] theorem Block.setDbuf_cur (v : List Sym) : (k.setDbuf v).cur = k.cur := rfl
@[simp] theorem Block.setDbuf_dbuf (v : List Sym) : (k.setDbuf v).dbuf = v := rfl
@[simp] theorem Block.setDbuf_dmode (v : List Sym) : (k.setDbuf v).dmode = k.dmode := rfl

@[simp] theorem Block.setDmode_mode (v : DMode) : (k.setDmode v).mode = k.mode := rfl
@[simp] theorem Block.setDmode_sent (v : DMode) : (k.setDmode v).sent = k.sent := rfl
@[simp] theorem Block.setDmode_root (v : DMode) : (k.setDmode v).root = k.root := rfl
@[simp] theorem Block.setDmode_lutw (v : DMode) : (k.setDmode v).lutw = k.lutw := rfl
@[simp] theorem Block.setDmode_node (v : DMode) : (k.setDmode v).node = k.node := rfl
@[simp] theorem Block.setDmode_unk (v : DMode) : (k.setDmode v).unk = k.unk := rfl
@[simp] theorem Block.setDmode_trunc (v : DMode) : (k.setDmode v).trunc = k.trunc := rfl
@[simp] theorem Block.setDmode_cfgerr (v : DMode) : (k.setDmode v).cfgerr = k.cfgerr := rfl
@[simp] theorem Block.setDmode_acc (v : DMode) : (k.setDmode v).acc = k.acc := rfl
@[simp] theorem Block.setDmode_nb (v : DMode) : (k.setDmode v).nb = k.nb := rfl
@[simp] theorem Block.setDmode_obuf (v : DMode) : (k.setDmode v).obuf = k.obuf := rfl
@[simp] theorem Block.setDmode_emode (v : DMode) : (k.setDmode v).emode = k.emode := rfl
@[simp] theorem Block.setDmode_cur (v : DMode) : (k.setDmode v).cur = k.cur := rfl
@[simp] theorem Block.setDmode_dbuf (v : DMode) : (k.setDmode v).dbuf = k.dbuf := rfl
@[simp] theorem Block.setDmode_dmode (v : DMode) : (k.setDmode v).dmode = v := rfl

end

section
variable (s : State)

@[simp] theorem State.setBlk_blk (b : Block) : (s.setBlk b).blk = b := rfl
@[simp] theorem State.setBlk_encIn (b : Block) : (s.setBlk b).encIn = s.encIn := rfl
@[simp] theorem State.setBlk_decIn (b : Block) : (s.setBlk b).decIn = s.decIn := rfl
@[simp] theorem State.setBlk_cfgIn (b : Block) : (s.setBlk b).cfgIn = s.cfgIn := rfl
@[simp] theorem State.setBlk_encOut (b : Block) : (s.setBlk b).encOut = s.encOut := rfl
@[simp] theorem State.setBlk_decOut (b : Block) : (s.setBlk b).decOut = s.decOut := rfl
@[simp] theorem State.setBlk_cfgOut (b : Block) : (s.setBlk b).cfgOut = s.cfgOut := rfl
@[simp] theorem State.setBlk_sched (b : Block) : (s.setBlk b).sched = s.sched := rfl

@[simp] theorem State.acceptEnc_blk : (s.acceptEnc).blk = s.blk := rfl
@[simp] theorem State.acceptEnc_encIn : (s.acceptEnc).encIn = s.encIn.tail := rfl
@[simp] theorem State.acceptEnc_decIn : (s.acceptEnc).decIn = s.decIn := rfl
@[simp] theorem State.acceptEnc_cfgIn : (s.acceptEnc).cfgIn = s.cfgIn := rfl
@[simp] theorem State.acceptEnc_encOut : (s.acceptEnc).encOut = s.encOut := rfl
@[simp] theorem State.acceptEnc_decOut : (s.acceptEnc).decOut = s.decOut := rfl
@[simp] theorem State.acceptEnc_cfgOut : (s.acceptEnc).cfgOut = s.cfgOut := rfl
@[simp] theorem State.acceptEnc_sched : (s.acceptEnc).sched = s.sched := rfl

@[simp] theorem State.acceptDec_blk : (s.acceptDec).blk = s.blk := rfl
@[simp] theorem State.acceptDec_encIn : (s.acceptDec).encIn = s.encIn := rfl
@[simp] theorem State.acceptDec_decIn : (s.acceptDec).decIn = s.decIn.tail := rfl
@[simp] theorem State.acceptDec_cfgIn : (s.acceptDec).cfgIn = s.cfgIn := rfl
@[simp] theorem State.acceptDec_encOut : (s.acceptDec).encOut = s.encOut := rfl
@[simp] theorem State.acceptDec_decOut : (s.acceptDec).decOut = s.decOut := rfl
@[simp] theorem State.acceptDec_cfgOut : (s.acceptDec).cfgOut = s.cfgOut := rfl
@[simp] theorem State.acceptDec_sched : (s.acceptDec).sched = s.sched := rfl

@[simp] theorem State.acceptCfg_blk : (s.acceptCfg).blk = s.blk := rfl
@[simp] theorem State.acceptCfg_encIn : (s.acceptCfg).encIn = s.encIn := rfl
@[simp] theorem State.acceptCfg_decIn : (s.acceptCfg).decIn = s.decIn := rfl
@[simp] theorem State.acceptCfg_cfgIn : (s.acceptCfg).cfgIn = s.cfgIn.tail := rfl
@[simp] theorem State.acceptCfg_encOut : (s.acceptCfg).encOut = s.encOut := rfl
@[simp] theorem State.acceptCfg_decOut : (s.acceptCfg).decOut = s.decOut := rfl
@[simp] theorem State.acceptCfg_cfgOut : (s.acceptCfg).cfgOut = s.cfgOut := rfl
@[simp] theorem State.acceptCfg_sched : (s.acceptCfg).sched = s.sched := rfl

@[simp] theorem State.emitEnc_blk (ts : List OutToken) : (s.emitEnc ts).blk = s.blk := rfl
@[simp] theorem State.emitEnc_encIn (ts : List OutToken) : (s.emitEnc ts).encIn = s.encIn := rfl
@[simp] theorem State.emitEnc_decIn (ts : List OutToken) : (s.emitEnc ts).decIn = s.decIn := rfl
@[simp] theorem State.emitEnc_cfgIn (ts : List OutToken) : (s.emitEnc ts).cfgIn = s.cfgIn := rfl
@[simp] theorem State.emitEnc_encOut (ts : List OutToken) : (s.emitEnc ts).encOut = s.encOut ++ ts := rfl
@[simp] theorem State.emitEnc_decOut (ts : List OutToken) : (s.emitEnc ts).decOut = s.decOut := rfl
@[simp] theorem State.emitEnc_cfgOut (ts : List OutToken) : (s.emitEnc ts).cfgOut = s.cfgOut := rfl
@[simp] theorem State.emitEnc_sched (ts : List OutToken) : (s.emitEnc ts).sched = s.sched := rfl

@[simp] theorem State.emitDec_blk (ts : List OutToken) : (s.emitDec ts).blk = s.blk := rfl
@[simp] theorem State.emitDec_encIn (ts : List OutToken) : (s.emitDec ts).encIn = s.encIn := rfl
@[simp] theorem State.emitDec_decIn (ts : List OutToken) : (s.emitDec ts).decIn = s.decIn := rfl
@[simp] theorem State.emitDec_cfgIn (ts : List OutToken) : (s.emitDec ts).cfgIn = s.cfgIn := rfl
@[simp] theorem State.emitDec_encOut (ts : List OutToken) : (s.emitDec ts).encOut = s.encOut := rfl
@[simp] theorem State.emitDec_decOut (ts : List OutToken) : (s.emitDec ts).decOut = s.decOut ++ ts := rfl
@[simp] theorem State.emitDec_cfgOut (ts : List OutToken) : (s.emitDec ts).cfgOut = s.cfgOut := rfl
@[simp] theorem State.emitDec_sched (ts : List OutToken) : (s.emitDec ts).sched = s.sched := rfl

@[simp] theorem State.respond_blk (w : Word) : (s.respond w).blk = s.blk := rfl
@[simp] theorem State.respond_encIn (w : Word) : (s.respond w).encIn = s.encIn := rfl
@[simp] theorem State.respond_decIn (w : Word) : (s.respond w).decIn = s.decIn := rfl
@[simp] theorem State.respond_cfgIn (w : Word) : (s.respond w).cfgIn = s.cfgIn := rfl
@[simp] theorem State.respond_encOut (w : Word) : (s.respond w).encOut = s.encOut := rfl
@[simp] theorem State.respond_decOut (w : Word) : (s.respond w).decOut = s.decOut := rfl
@[simp] theorem State.respond_cfgOut (w : Word) : (s.respond w).cfgOut = s.cfgOut ++ [w] := rfl
@[simp] theorem State.respond_sched (w : Word) : (s.respond w).sched = s.sched := rfl

@[simp] theorem State.advance_blk : (s.advance).blk = s.blk := rfl
@[simp] theorem State.advance_encIn : (s.advance).encIn = s.encIn := rfl
@[simp] theorem State.advance_decIn : (s.advance).decIn = s.decIn := rfl
@[simp] theorem State.advance_cfgIn : (s.advance).cfgIn = s.cfgIn := rfl
@[simp] theorem State.advance_encOut : (s.advance).encOut = s.encOut := rfl
@[simp] theorem State.advance_decOut : (s.advance).decOut = s.decOut := rfl
@[simp] theorem State.advance_cfgOut : (s.advance).cfgOut = s.cfgOut := rfl
@[simp] theorem State.advance_sched : (s.advance).sched = s.sched.tail := rfl

end

end Sys2Proof.Machine
end

