-- ==== Sys2Proof/Laws/Tables.lean ====
section
/-! SUPPORT. The laws of a table: read after write, and that a write keeps the canonical form (log entry 4). -/

namespace Sys2Proof.Machine

@[simp] theorem Table.read_nil (a : Nat) : Table.read [] a = 0#32 := rfl

theorem Table.read_cons (c : Nat × Word) (t : Table) (a : Nat) :
    Table.read (c :: t) a = if a = c.1 then c.2 else Table.read t a := rfl

theorem Table.wfAbove_cons {lo a : Nat} {v : Word} {t : Table} :
    Table.wfAbove lo ((a, v) :: t) = true ↔ lo ≤ a ∧ v ≠ 0#32 ∧ Table.wfAbove (a + 1) t = true := by
  simp [Table.wfAbove, and_assoc]

theorem Table.wfAbove_mono {t : Table} {lo hi : Nat} (h : Table.wfAbove hi t = true) (hle : lo ≤ hi) :
    Table.wfAbove lo t = true := by
  cases t with
  | nil => rfl
  | cons c t =>
    obtain ⟨h1, h2, h3⟩ := wfAbove_cons.1 h
    exact wfAbove_cons.2 ⟨by omega, h2, h3⟩

/-- An address below the bound of a canonical table is unlisted. -/
theorem Table.read_below {t : Table} {lo a : Nat} (h : Table.wfAbove lo t = true) (ha : a < lo) : t.read a = 0#32 := by
  induction t generalizing lo with
  | nil => rfl
  | cons c t ih =>
    obtain ⟨h1, -, h3⟩ := wfAbove_cons.1 h
    rw [read_cons, if_neg (by omega), ih h3 (by omega)]

/-- A write leaves every other address alone. -/
theorem Table.read_write_other (t : Table) {a b : Nat} (v : Word) (h : b ≠ a) : (t.write a v).read b = t.read b := by
  induction t with
  | nil => unfold Table.write; split <;> simp [read_cons, h]
  | cons c t ih =>
    unfold Table.write
    split
    · split <;> simp [read_cons, h]
    · split
      · rename_i heq
        have hb : b ≠ c.1 := by omega
        split <;> simp [read_cons, h, hb]
      · simp [read_cons, ih]

theorem Table.read_write_above {t : Table} {lo a : Nat} (v : Word) (h : Table.wfAbove lo t = true) :
    (t.write a v).read a = v := by
  induction t generalizing lo with
  | nil => unfold Table.write; split <;> simp [read_cons, *]
  | cons c t ih =>
    obtain ⟨h1, h2, h3⟩ := wfAbove_cons.1 h
    unfold Table.write
    split
    · split
      · rename_i hlt hv
        rw [read_cons, if_neg (by omega), read_below h3 (by omega), hv]
      · simp [read_cons]
    · split
      · rename_i heq
        subst heq
        split
        · rename_i hv
          rw [read_below h3 (by omega), hv]
        · simp [read_cons]
      · rename_i hne
        rw [read_cons, if_neg hne, ih h3]

/-- In a canonical table a read after a write to the same address gives the word written. -/
theorem Table.read_write_same {t : Table} (h : t.wf = true) (a : Nat) (v : Word) : (t.write a v).read a = v :=
  read_write_above v h

theorem Table.write_wfAbove {t : Table} {lo a : Nat} (v : Word) (h : Table.wfAbove lo t = true) (ha : lo ≤ a) :
    Table.wfAbove lo (t.write a v) = true := by
  induction t generalizing lo with
  | nil =>
    unfold Table.write; split
    · rfl
    · exact wfAbove_cons.2 ⟨ha, ‹_›, rfl⟩
  | cons c t ih =>
    obtain ⟨h1, h2, h3⟩ := wfAbove_cons.1 h
    unfold Table.write
    split
    · split
      · exact h
      · exact wfAbove_cons.2 ⟨ha, ‹_›, wfAbove_cons.2 ⟨by omega, h2, h3⟩⟩
    · split
      · rename_i heq
        subst heq
        split
        · exact wfAbove_mono h3 (by omega)
        · exact wfAbove_cons.2 ⟨ha, ‹_›, h3⟩
      · exact wfAbove_cons.2 ⟨h1, h2, ih h3 (by omega)⟩

/-- A write keeps the canonical form. -/
theorem Table.write_wf {t : Table} (h : t.wf = true) (a : Nat) (v : Word) : (t.write a v).wf = true :=
  write_wfAbove v h (Nat.zero_le _)

/-- A write lists no address but its own beside those listed before. -/
theorem Table.write_within {t : Table} {p : Nat → Bool} (h : t.within p = true) {a : Nat} (ha : p a = true) (v : Word) :
    (t.write a v).within p = true := by
  induction t with
  | nil => unfold Table.write; split <;> simp [Table.within, ha]
  | cons c t ih =>
    simp only [Table.within, List.all_cons, Bool.and_eq_true] at h ih ⊢
    unfold Table.write
    split
    · split <;> simp [ha, h.1, h.2]
    · split
      · split <;> simp [ha, h.2]
      · simp [h.1, ih h.2]

/-- Canonical tables that read the same everywhere are the same data. -/
theorem Table.ext_above {t u : Table} {lo : Nat} (ht : Table.wfAbove lo t = true) (hu : Table.wfAbove lo u = true)
    (h : ∀ a, t.read a = u.read a) : t = u := by
  induction t generalizing u lo with
  | nil =>
    cases u with
    | nil => rfl
    | cons d u =>
      obtain ⟨-, h2, -⟩ := wfAbove_cons.1 hu
      exact absurd (by simpa [read_cons] using (h d.1).symm) h2
  | cons c t ih =>
    obtain ⟨c1, c2, c3⟩ := wfAbove_cons.1 ht
    cases u with
    | nil => exact absurd (by simpa [read_cons] using h c.1) c2
    | cons d u =>
      obtain ⟨d1, d2, d3⟩ := wfAbove_cons.1 hu
      have key : c.1 = d.1 := by
        rcases Nat.lt_trichotomy c.1 d.1 with hlt | heq | hgt
        · have := h c.1
          rw [read_cons, if_pos rfl, read_cons, if_neg (by omega), read_below d3 (by omega)] at this
          exact absurd this c2
        · exact heq
        · have := h d.1
          rw [read_cons, if_neg (by omega), read_below c3 (by omega), read_cons, if_pos rfl] at this
          exact absurd this.symm d2
      have val : c.2 = d.2 := by
        have := h c.1
        rwa [read_cons, if_pos rfl, read_cons, if_pos key] at this
      have tail : t = u := by
        refine ih (lo := c.1 + 1) c3 (key ▸ d3) fun a => ?_
        by_cases ha : a = c.1
        · subst ha
          rw [read_below c3 (by omega), read_below d3 (by omega)]
        · have := h a
          rwa [read_cons, if_neg ha, read_cons, if_neg (by omega)] at this
      rw [tail, Prod.ext key val]

theorem Table.ext_of_read {t u : Table} (ht : t.wf = true) (hu : u.wf = true) (h : ∀ a, t.read a = u.read a) : t = u :=
  ext_above ht hu h

/-! ## The addresses of the tables (R61) -/

theorem isLutKey_iff (a : Nat) : isLutKey a = true ↔ 0x1000 ≤ a ∧ a < 0x2000 ∧ a % 16 ≤ 8 := by
  simp [isLutKey, and_assoc]

theorem isNodeKey_iff (a : Nat) : isNodeKey a = true ↔ 0x2000 ≤ a ∧ a < 0x2200 := by simp [isNodeKey]

theorem isLutKey_lutKey (c : Sym) {i : Nat} (h : i ≤ 8) : isLutKey (lutKey c i) = true := by
  have := c.isLt
  rw [isLutKey_iff, lutKey]
  omega

theorem isNodeKey_nodeKey (i : Idx) : isNodeKey (nodeKey i) = true := by
  have := i.isLt
  rw [isNodeKey_iff, nodeKey]
  omega

theorem lutKey_inj {c d : Sym} {i j : Nat} (hi : i ≤ 15) (hj : j ≤ 15) (h : lutKey c i = lutKey d j) : c = d ∧ i = j := by
  simp only [lutKey] at h
  exact ⟨BitVec.eq_of_toNat_eq (by omega), by omega⟩

theorem nodeKey_inj {i j : Idx} (h : nodeKey i = nodeKey j) : i = j :=
  BitVec.eq_of_toNat_eq (by simpa [nodeKey] using h)

end Sys2Proof.Machine
end

