-- ==== Sys2Proof/Laws/Ops.lean ====
section
/-! SUPPORT. One lemma per shared operation: what it can do, for citing instead of unfolding it. -/

namespace Sys2Proof.Machine

/-! ## Sequencing, capacities, acceptance -/

@[simp] theorem andThen_next (s : State) (f : State → Result) : andThen (.next s) f = f s := rfl
@[simp] theorem andThen_refused (e : Refusal) (f : State → Result) : andThen (.refused e) f = .refused e := rfl

/-- `andThen` answers a next state only through one. -/
theorem andThen_eq_next {r : Result} {f : State → Result} {t : State} (h : andThen r f = .next t) :
    ∃ s, r = .next s ∧ f s = .next t := by
  cases r with
  | next s => exact ⟨s, rfl, h⟩
  | fault e => exact nomatch e
  | refused e => exact nomatch h

theorem andThen_assoc (r : Result) (f g : State → Result) :
    andThen (andThen r f) g = andThen r fun s => andThen (f s) g := by
  cases r with
  | next s => rfl
  | fault e => exact nomatch e
  | refused e => rfl

@[simp] theorem fits_none (n : Nat) : fits none n = true := rfl
@[simp] theorem fits_some (c n : Nat) : fits (some c) n = decide (n ≤ c) := rfl
/-- The defaults are unbounded (log entry 5). -/
@[simp] theorem params_obufCap : Config.params.obufCap = none := rfl
@[simp] theorem params_dbufCap : Config.params.dbufCap = none := rfl
@[simp] theorem params_emptyIsOk : Config.params.emptyIsOk = false := rfl

theorem whenRunning_config {s : State} (h : s.blk.mode = .config) (go : Result) : whenRunning s go = .next s := by
  simp [whenRunning, h]

theorem whenRunning_run {s : State} (h : s.blk.mode = .run) (go : Result) : whenRunning s go = go := by
  simp [whenRunning, h]

/-- A stream token is held with nothing changed, or the machine runs and the operation is done. -/
theorem whenRunning_cases (s : State) (go : Result) :
    (s.blk.mode = .config ∧ whenRunning s go = .next s) ∨ (s.blk.mode = .run ∧ whenRunning s go = go) := by
  cases h : s.blk.mode with
  | config => exact .inl ⟨rfl, whenRunning_config h go⟩
  | run => exact .inr ⟨rfl, whenRunning_run h go⟩

theorem underWfRoot_true {s : State} (h : s.blk.wfRoot = true) (go : Result) : underWfRoot s go = go := if_pos h

theorem underWfRoot_false {s : State} (h : s.blk.wfRoot = false) (go : Result) :
    underWfRoot s go = .refused .rootNotWf := if_neg (by simp [h])

/-! ## Configuration writes -/

theorem cfgWrite_run {s : State} (h : s.blk.mode = .run) (f : Block → Block) :
    cfgWrite s f = .next (s.acceptCfg.setBlk s.blk.setCfgerr) := by simp [cfgWrite, h]

theorem cfgWrite_config {s : State} (h : s.blk.mode = .config) (f : Block → Block) :
    cfgWrite s f = .next (s.acceptCfg.setBlk (f s.blk)) := by simp [cfgWrite, h]

/-- A write is refused in RUN with CFGERR alone, or has its effect in CONFIG. -/
theorem cfgWrite_cases (s : State) (f : Block → Block) :
    (s.blk.mode = .run ∧ cfgWrite s f = .next (s.acceptCfg.setBlk s.blk.setCfgerr)) ∨
    (s.blk.mode = .config ∧ cfgWrite s f = .next (s.acceptCfg.setBlk (f s.blk))) := by
  cases h : s.blk.mode with
  | config => exact .inr ⟨rfl, cfgWrite_config h f⟩
  | run => exact .inl ⟨rfl, cfgWrite_run h f⟩

/-! ## Failures -/

@[simp] theorem raiseUnknownSymbol_blk (s : State) (v : Sym) (e : EMode) :
    (s.raiseUnknownSymbol v e).blk = ((s.blk.setPacker 0x00#8 0#3 []).setUnk).setEmode e := rfl
@[simp] theorem raiseUnknownSymbol_encOut (s : State) (v : Sym) (e : EMode) :
    (s.raiseUnknownSymbol v e).encOut = s.encOut ++ [.endErr causeUnknownSymbol v] := rfl
@[simp] theorem raiseTruncatedInput_blk (s : State) :
    s.raiseTruncatedInput.blk = ((s.blk.setDbuf []).setTrunc).setDmode .idle := rfl
@[simp] theorem raiseTruncatedInput_decOut (s : State) :
    s.raiseTruncatedInput.decOut = s.decOut ++ [.endErr causeTruncatedInput 0#8] := rfl

/-- The encoder's failure changes only the block and ENC_OUT. -/
theorem raiseUnknownSymbol_frame (s : State) (v : Sym) (e : EMode) :
    s.raiseUnknownSymbol v e =
      { s with blk := (s.raiseUnknownSymbol v e).blk, encOut := (s.raiseUnknownSymbol v e).encOut } := rfl

/-- The decoder's failure changes only the block and DEC_OUT. -/
theorem raiseTruncatedInput_frame (s : State) :
    s.raiseTruncatedInput = { s with blk := s.raiseTruncatedInput.blk, decOut := s.raiseTruncatedInput.decOut } := rfl

/-! ## Fetching -/

theorem fetch_enc {s : State} {w : BitVec 9} {ws : List (BitVec 9)} {as : List Agent} (hs : s.sched = .enc :: as)
    (hq : s.encIn = w :: ws) : s.fetch = some (decode (.encIn w)) := by simp [State.fetch, hs, hq]

theorem fetch_dec {s : State} {w : BitVec 9} {ws : List (BitVec 9)} {as : List Agent} (hs : s.sched = .dec :: as)
    (hq : s.decIn = w :: ws) : s.fetch = some (decode (.decIn w)) := by simp [State.fetch, hs, hq]

theorem fetch_cfg {s : State} {w : BitVec 49} {ws : List (BitVec 49)} {as : List Agent} (hs : s.sched = .cfg :: as)
    (hq : s.cfgIn = w :: ws) : s.fetch = some (decode (.cfg w)) := by simp [State.fetch, hs, hq]

theorem fetch_reset {s : State} {as : List Agent} (hs : s.sched = .reset :: as) : s.fetch = some .reset := by
  simp [State.fetch, hs, decode]

/-- What is fetched is always a decoded token. -/
theorem fetch_is_decoded {s : State} {i : Instr} (h : s.fetch = some i) : ∃ t, i = decode t := by
  unfold State.fetch at h
  split at h <;> simp only [Option.map_eq_some_iff, reduceCtorEq, Option.some.injEq] at h
  · exact ⟨_, h.symm⟩
  all_goals
    obtain ⟨w, -, rfl⟩ := h
    exact ⟨_, rfl⟩

end Sys2Proof.Machine
end

