-- ==== Sys2Proof/Laws/Decoder.lean ====
section
/-! SUPPORT. What the walk's procedures and the decoder's operations can do. -/

namespace Sys2Proof.Machine

/-- The fields the walk writes. -/
def Block.setWalk (k : Block) (c : Idx) (d : List Sym) (m : DMode) : Block := ((k.setCur c).setDbuf d).setDmode m

@[simp] theorem setWalk_setWalk (k : Block) (c c' : Idx) (d d' : List Sym) (m m' : DMode) :
    (k.setWalk c d m).setWalk c' d' m' = k.setWalk c' d' m' := rfl

@[simp] theorem setWalk_self (k : Block) : k.setWalk k.cur k.dbuf k.dmode = k := rfl

/-- One walk_bit: the bit is ignored, an internal node is reached, a symbol is decoded, or the sentinel commits (R202, R206). -/
theorem walkBit_cases (k : Block) (b : Bool) :
    (k.dmode ≠ .walk ∧ k.walkBit b = (k, [])) ∨
    (k.dmode = .walk ∧ k.leaf (k.child k.cur b) = false ∧ k.walkBit b = (k.setWalk (k.child k.cur b) k.dbuf .walk, [])) ∨
    (k.dmode = .walk ∧ k.leaf (k.child k.cur b) = true ∧ k.sym (k.child k.cur b) ≠ k.sent ∧
      k.walkBit b = (k.setWalk k.root (k.dbuf ++ [k.sym (k.child k.cur b)]) .walk, [])) ∨
    (k.dmode = .walk ∧ k.leaf (k.child k.cur b) = true ∧ k.sym (k.child k.cur b) = k.sent ∧
      k.walkBit b = (k.setWalk (k.child k.cur b) [] .skip, successResult k.dbuf)) := by
  cases hd : k.dmode with
  | idle => exact .inl ⟨by simp, by simp [Block.walkBit, hd]⟩
  | skip => exact .inl ⟨by simp, by simp [Block.walkBit, hd]⟩
  | walk =>
    right
    cases hl : k.leaf (k.child k.cur b) with
    | false =>
      refine .inl ⟨rfl, rfl, ?_⟩
      have h : (k.setCur (k.child k.cur b)).leaf (k.child k.cur b) = false := hl
      simp only [Block.walkBit, hd, Block.setCur_cur, h]
      rw [← hd]
      rfl
    | true =>
      right
      have h : (k.setCur (k.child k.cur b)).leaf (k.child k.cur b) = true := hl
      have hs : (k.setCur (k.child k.cur b)).sym (k.child k.cur b) = k.sym (k.child k.cur b) := rfl
      by_cases he : k.sym (k.child k.cur b) = k.sent
      · refine .inr ⟨rfl, rfl, he, ?_⟩
        simp only [Block.walkBit, hd, Block.setCur_cur, h, hs, he, Block.setCur_sent, if_true]
        rfl
      · refine .inl ⟨rfl, rfl, he, ?_⟩
        simp only [Block.walkBit, hd, Block.setCur_cur, h, hs, he, Block.setCur_sent, if_true, if_false]
        rw [← hd]
        rfl

/-- walk_bit writes CUR, DBUF and DMODE alone. -/
theorem walkBit_frame (k : Block) (b : Bool) : ∃ c d m, (k.walkBit b).1 = k.setWalk c d m := by
  obtain ⟨-, h⟩ | ⟨-, -, h⟩ | ⟨-, -, -, h⟩ | ⟨-, -, -, h⟩ := walkBit_cases k b <;> rw [h]
  · exact ⟨_, _, _, (setWalk_self k).symm⟩
  all_goals exact ⟨_, _, _, rfl⟩

theorem walkBits_nil (k : Block) : k.walkBits [] = (k, []) := rfl
theorem walkBits_cons (k : Block) (b : Bool) (bs : Bits) :
    k.walkBits (b :: bs) =
      (((k.walkBit b).1.walkBits bs).1, (k.walkBit b).2 ++ ((k.walkBit b).1.walkBits bs).2) := rfl

/-- Walking writes CUR, DBUF and DMODE alone. -/
theorem walkBits_frame (k : Block) (bs : Bits) : ∃ c d m, (k.walkBits bs).1 = k.setWalk c d m := by
  induction bs generalizing k with
  | nil => exact ⟨_, _, _, (setWalk_self k).symm⟩
  | cons b bs ih =>
    obtain ⟨c, d, m, h⟩ := walkBit_frame k b
    obtain ⟨c', d', m', h'⟩ := ih (k.walkBit b).1
    exact ⟨c', d', m', by rw [walkBits_cons, h', h, setWalk_setWalk]⟩

/-- Outside WALK every bit is ignored (R202). -/
theorem walkBits_not_walking {k : Block} (h : k.dmode ≠ .walk) (bs : Bits) : k.walkBits bs = (k, []) := by
  induction bs with
  | nil => rfl
  | cons b bs ih =>
    obtain ⟨-, hb⟩ | ⟨hd, -⟩ | ⟨hd, -⟩ | ⟨hd, -⟩ := walkBit_cases k b
    · rw [walkBits_cons, hb]; simp [ih]
    all_goals exact absurd hd h

/-- The default DBUF_CAP never refuses a walk. -/
theorem walkAndCommit_params (b : Byte) (s : State) :
    walkAndCommit Config.params b s = .next ((s.setBlk (s.blk.walkByte b).1).emitDec (s.blk.walkByte b).2) := by
  simp [walkAndCommit]

/-- If DEC.BYTE answers a next state, the token was held, skipped, ended a degenerate frame, started a walk or went on with one
(R239). -/
theorem execDecByte_next {b : Byte} {s t : State} (h : execDecByte b s = .next t) :
    (s.blk.mode = .config ∧ t = s) ∨
    (s.blk.mode = .run ∧ s.blk.wfRoot = true ∧
      ((s.blk.dmode = .skip ∧ t = s.acceptDec) ∨
       (s.blk.dmode = .idle ∧ s.blk.leaf s.blk.root = true ∧ t = s.acceptDec.degenerateFrame .skip) ∨
       (s.blk.dmode = .idle ∧ s.blk.leaf s.blk.root = false ∧
        t = (s.acceptDec.setBlk (s.blk.startFrame.walkByte b).1).emitDec (s.blk.startFrame.walkByte b).2) ∨
       (s.blk.dmode = .walk ∧ t = (s.acceptDec.setBlk (s.blk.walkByte b).1).emitDec (s.blk.walkByte b).2))) := by
  unfold execDecByte decByteWith at h
  obtain ⟨hm, hw⟩ | ⟨hm, hw⟩ := whenRunning_cases s _ <;> rw [hw] at h
  · exact .inl ⟨hm, by cases h; rfl⟩
  · cases hr : s.blk.wfRoot with
    | false => rw [underWfRoot_false hr] at h; exact nomatch h
    | true =>
      rw [underWfRoot_true hr] at h
      refine .inr ⟨hm, rfl, ?_⟩
      cases hd : s.blk.dmode <;> simp only [hd, walkAndCommit_params] at h
      · cases hl : s.blk.leaf s.blk.root <;> simp [hl] at h
        · exact .inr (.inr (.inl ⟨rfl, rfl, h.symm⟩))
        · exact .inr (.inl ⟨rfl, rfl, h.symm⟩)
      · exact .inr (.inr (.inr ⟨rfl, by cases h; rfl⟩))
      · exact .inl ⟨rfl, by cases h; rfl⟩

/-- If DEC.END answers a next state, the token was held, ended a skipped frame, was a degenerate frame, or reported TruncatedInput
(R239). -/
theorem execDecEnd_next {g : BitVec 8} {s t : State} (h : execDecEnd g s = .next t) :
    (s.blk.mode = .config ∧ t = s) ∨
    (s.blk.mode = .run ∧ s.blk.wfRoot = true ∧
      ((s.blk.dmode = .skip ∧ t = s.acceptDec.setBlk (s.blk.setDmode .idle)) ∨
       (s.blk.dmode = .idle ∧ s.blk.leaf s.blk.root = true ∧ t = s.acceptDec.degenerateFrame .idle) ∨
       (s.blk.dmode = .idle ∧ s.blk.leaf s.blk.root = false ∧ t = s.acceptDec.raiseTruncatedInput) ∨
       (s.blk.dmode = .walk ∧ t = s.acceptDec.raiseTruncatedInput))) := by
  unfold execDecEnd decEndWith at h
  obtain ⟨hm, hw⟩ | ⟨hm, hw⟩ := whenRunning_cases s _ <;> rw [hw] at h
  · exact .inl ⟨hm, by cases h; rfl⟩
  · cases hr : s.blk.wfRoot with
    | false => rw [underWfRoot_false hr] at h; exact nomatch h
    | true =>
      rw [underWfRoot_true hr] at h
      refine .inr ⟨hm, rfl, ?_⟩
      cases hd : s.blk.dmode <;> simp only [hd] at h
      · cases hl : s.blk.leaf s.blk.root <;> simp [hl, emptyFrame] at h
        · exact .inr (.inr (.inl ⟨rfl, rfl, h.symm⟩))
        · exact .inr (.inl ⟨rfl, rfl, h.symm⟩)
      · exact .inr (.inr (.inr ⟨rfl, by cases h; rfl⟩))
      · exact .inl ⟨rfl, by cases h; rfl⟩

end Sys2Proof.Machine
end

