-- ==== Sys2Proof/Laws/Encoder.lean ====
section
/-! SUPPORT. What the packer's procedures and the encoder's operations can do. -/

namespace Sys2Proof.Machine

@[simp] theorem setPacker_setPacker (k : Block) (a a' : BitVec 8) (n n' : BitVec 3) (o o' : List Byte) :
    (k.setPacker a n o).setPacker a' n' o' = k.setPacker a' n' o' := rfl

@[simp] theorem setPacker_self (k : Block) : k.setPacker k.acc k.nb k.obuf = k := rfl

/-- push_bit writes ACC, NB and OBUF alone. -/
theorem pushBit_frame (k : Block) (b : Bool) : ∃ a n o, k.pushBit b = k.setPacker a n o := by
  unfold Block.pushBit
  dsimp only
  split <;> exact ⟨_, _, _, rfl⟩

theorem pushBits_nil (k : Block) : k.pushBits [] = k := rfl
theorem pushBits_cons (k : Block) (b : Bool) (c : Bits) : k.pushBits (b :: c) = (k.pushBit b).pushBits c := rfl
theorem pushBits_append (k : Block) (c d : Bits) : k.pushBits (c ++ d) = (k.pushBits c).pushBits d :=
  List.foldl_append ..

theorem pushBits_frame (k : Block) (c : Bits) : ∃ a n o, k.pushBits c = k.setPacker a n o := by
  induction c generalizing k with
  | nil => exact ⟨_, _, _, (setPacker_self k).symm⟩
  | cons b c ih =>
    obtain ⟨a, n, o, h⟩ := pushBit_frame k b
    obtain ⟨a', n', o', h'⟩ := ih (k.pushBit b)
    exact ⟨a', n', o', by rw [pushBits_cons, h', h, setPacker_setPacker]⟩

/-- push_code writes ACC, NB and OBUF alone. -/
theorem pushCode_frame (k : Block) (c : Sym) : ∃ a n o, k.pushCode c = k.setPacker a n o := pushBits_frame k _

/-- The accessors read LUTW, which the packer does not write. -/
@[simp] theorem setPacker_valid (k : Block) (a : BitVec 8) (n : BitVec 3) (o : List Byte) (c : Sym) :
    (k.setPacker a n o).valid c = k.valid c := rfl
@[simp] theorem setPacker_code (k : Block) (a : BitVec 8) (n : BitVec 3) (o : List Byte) (c : Sym) :
    (k.setPacker a n o).code c = k.code c := rfl

@[simp] theorem code_length (k : Block) (c : Sym) : (k.code c).length = k.len c := by simp [Block.code]

/-- One more bit is counted for every bit pushed (R39 (g)). -/
theorem pushBit_bitCount (k : Block) (b : Bool) : (k.pushBit b).bitCount = k.bitCount + 1 := by
  have := k.nb.isLt
  unfold Block.pushBit Block.bitCount
  dsimp only
  split
  · simp; omega
  · simp; omega

/-- ACC < 2^NB is kept (R39 (a)). -/
theorem pushBit_acc (k : Block) (b : Bool) (h : k.acc.toNat < 2 ^ k.nb.toNat) :
    (k.pushBit b).acc.toNat < 2 ^ (k.pushBit b).nb.toNat := by
  have hn := k.nb.isLt
  unfold Block.pushBit
  dsimp only
  split
  · simp
  · rename_i hne
    have hb : (BitVec.ofBool b).toNat ≤ 1 := by cases b <;> simp
    have hnb : (BitVec.ofNat 3 (k.nb.toNat + 1)).toNat = k.nb.toNat + 1 := by
      rw [BitVec.toNat_ofNat, Nat.mod_eq_of_lt (by omega)]
    have hacc : (k.acc.extractLsb' 0 7 ++ BitVec.ofBool b).toNat ≤ 2 * k.acc.toNat + 1 := by
      have h1 := Nat.mod_le k.acc.toNat (2 ^ 7)
      rw [BitVec.toNat_append, ← Nat.shiftLeft_add_eq_or_of_lt (BitVec.ofBool b).isLt, BitVec.extractLsb'_toNat,
        Nat.shiftRight_zero, Nat.shiftLeft_eq]
      omega
    simp only [Block.setPacker_acc, Block.setPacker_nb, hnb, Nat.pow_succ]
    omega

/-- If ENC.SYM answers a next state, the token was held, drained, encoded, or failed (R239). -/
theorem execEncSym_next {c : Sym} {s t : State} (h : execEncSym c s = .next t) :
    (s.blk.mode = .config ∧ t = s) ∨
    (s.blk.mode = .run ∧ s.blk.emode = .drain ∧ t = s.acceptEnc) ∨
    (s.blk.mode = .run ∧ s.blk.emode = .normal ∧ s.blk.valid c = true ∧ t = s.acceptEnc.setBlk (s.blk.pushCode c)) ∨
    (s.blk.mode = .run ∧ s.blk.emode = .normal ∧ s.blk.valid c = false ∧ t = s.acceptEnc.raiseUnknownSymbol c .drain) := by
  unfold execEncSym encSymWith at h
  obtain ⟨hm, hw⟩ | ⟨hm, hw⟩ := whenRunning_cases s _ <;> rw [hw] at h
  · exact .inl ⟨hm, by cases h; rfl⟩
  · cases he : s.blk.emode <;> simp only [he] at h
    · cases hv : s.blk.valid c <;> simp [hv] at h
      · exact .inr (.inr (.inr ⟨hm, rfl, rfl, h.symm⟩))
      · exact .inr (.inr (.inl ⟨hm, rfl, rfl, h.symm⟩))
    · exact .inr (.inl ⟨hm, rfl, by cases h; rfl⟩)

/-- If ENC.EOM answers a next state, the token was held, left DRAIN, committed the result, or failed (R239). -/
theorem execEncEom_next {g : BitVec 8} {s t : State} (h : execEncEom g s = .next t) :
    (s.blk.mode = .config ∧ t = s) ∨
    (s.blk.mode = .run ∧ s.blk.emode = .drain ∧ t = s.acceptEnc.leaveDrain) ∨
    (s.blk.mode = .run ∧ s.blk.emode = .normal ∧ s.blk.valid s.blk.sent = true ∧
      t = (s.acceptEnc.setBlk ((s.blk.pushCode s.blk.sent).setPacker 0x00#8 0#3 [])).emitEnc
        (successResult (s.blk.pushCode s.blk.sent).flushed)) ∨
    (s.blk.mode = .run ∧ s.blk.emode = .normal ∧ s.blk.valid s.blk.sent = false ∧
      t = s.acceptEnc.raiseUnknownSymbol s.blk.sent .normal) := by
  unfold execEncEom encEomWith at h
  obtain ⟨hm, hw⟩ | ⟨hm, hw⟩ := whenRunning_cases s _ <;> rw [hw] at h
  · exact .inl ⟨hm, by cases h; rfl⟩
  · cases he : s.blk.emode <;> simp only [he] at h
    · cases hv : s.blk.valid s.blk.sent <;> simp [hv] at h
      · exact .inr (.inr (.inr ⟨hm, rfl, rfl, h.symm⟩))
      · exact .inr (.inr (.inl ⟨hm, rfl, rfl, h.symm⟩))
    · exact .inr (.inl ⟨hm, rfl, by cases h; rfl⟩)

end Sys2Proof.Machine
end

