-- ==== Sys2Proof/Laws/PerInstr.lean ====
section
/-! SUPPORT. Statements made per operation: the token of an operation stands on the port the operation map gives its row
(`30_encoding.md` R105). -/

namespace Sys2Proof.Laws.TokenOnItsPort

/-- The port column of R105. -/
def mapPort : Instr → Machine.Agent
  | .reset => .reset
  | .encSym _ => .enc
  | .encEom _ => .enc
  | .decByte _ => .dec
  | .decEnd _ => .dec
  | .cfgWrCtrl _ => .cfg
  | .cfgWrStatus _ => .cfg
  | .cfgWrSent _ => .cfg
  | .cfgWrRoot _ => .cfg
  | .cfgWrLutK07 _ _ _ => .cfg
  | .cfgWrLutK8 _ _ => .cfg
  | .cfgWrLutRsv _ _ _ => .cfg
  | .cfgWrNode _ _ => .cfg
  | .cfgWrUnmapped _ _ => .cfg
  | .cfgRd _ _ => .cfg

/-- The encoded token is taken by the agent of the row's port. -/
def Statement (i : Instr) : Prop := Machine.tokenAgent (encode i) = mapPort i

theorem reset : Statement .reset := rfl
theorem encSym (s : Sym) : Statement (.encSym s) := rfl
theorem encEom (g : BitVec 8) : Statement (.encEom g) := rfl
theorem decByte (b : Byte) : Statement (.decByte b) := rfl
theorem decEnd (g : BitVec 8) : Statement (.decEnd g) := rfl
theorem cfgWrCtrl (d : Word) : Statement (.cfgWrCtrl d) := rfl
theorem cfgWrStatus (d : Word) : Statement (.cfgWrStatus d) := rfl
theorem cfgWrSent (d : Word) : Statement (.cfgWrSent d) := rfl
theorem cfgWrRoot (d : Word) : Statement (.cfgWrRoot d) := rfl
theorem cfgWrLutK07 (s : Sym) (k : BitVec 3) (d : Word) : Statement (.cfgWrLutK07 s k d) := rfl
theorem cfgWrLutK8 (s : Sym) (d : Word) : Statement (.cfgWrLutK8 s d) := rfl
theorem cfgWrLutRsv (s : Sym) (k : BitVec 4) (d : Word) : Statement (.cfgWrLutRsv s k d) := rfl
theorem cfgWrNode (i : Idx) (d : Word) : Statement (.cfgWrNode i d) := rfl
theorem cfgWrUnmapped (a : Addr) (d : Word) : Statement (.cfgWrUnmapped a d) := rfl
theorem cfgRd (a : Addr) (g : Word) : Statement (.cfgRd a g) := rfl

end Sys2Proof.Laws.TokenOnItsPort
end

