-- ==== Sys2Proof/Laws/Run.lean ====
section
/-! SUPPORT. Runs (`Machine/Run.lean`): what a step does with the order of steps, and a run against the list of its operations. -/

namespace Sys2Proof.Machine

/-- No meaning reads or writes the order of steps. -/
theorem exec_withSched (i : Instr) (s : State) (as : List Agent) :
    exec i { s with sched := as } = andThen (exec i s) fun t => .next { t with sched := as } := by
  obtain ⟨k, ei, di, ci, eo, d, co, sc⟩ := s
  cases i with
  | encSym c =>
    cases hm : k.mode <;> cases he : k.emode <;> cases hv : k.valid c <;>
      simp [exec, execEncSym, encSymWith, whenRunning, hm, he, hv, andThen, State.acceptEnc, State.setBlk,
        State.raiseUnknownSymbol, State.emitEnc]
  | encEom g =>
    cases hm : k.mode <;> cases he : k.emode <;> cases hv : k.valid k.sent <;>
      simp [exec, execEncEom, encEomWith, whenRunning, hm, he, hv, andThen, State.acceptEnc, State.setBlk, State.leaveDrain,
        State.raiseUnknownSymbol, State.emitEnc]
  | decByte b =>
    cases hm : k.mode <;> cases hw : k.wfRoot <;> cases hd : k.dmode <;> cases hl : k.leaf k.root <;>
      simp [exec, execDecByte, decByteWith, whenRunning, underWfRoot, walkAndCommit, hm, hw, hd, hl, andThen, State.acceptDec,
        State.setBlk, State.degenerateFrame, State.emitDec]
  | decEnd g =>
    cases hm : k.mode <;> cases hw : k.wfRoot <;> cases hd : k.dmode <;> cases hl : k.leaf k.root <;>
      simp [exec, execDecEnd, decEndWith, whenRunning, underWfRoot, emptyFrame, hm, hw, hd, hl, andThen, State.acceptDec,
        State.setBlk, State.degenerateFrame, State.emitDec, State.raiseTruncatedInput]
  | reset => rfl
  | cfgRd a g => rfl
  | _ => cases hm : k.mode <;> simp [exec, execCfgWrCtrl, execCfgWrStatus, execCfgWrSent, execCfgWrRoot, execCfgWrLutK07,
      execCfgWrLutK8, execCfgWrLutRsv, execCfgWrNode, execCfgWrUnmapped, cfgWrite, hm, andThen, State.acceptCfg, State.setBlk]

/-- No operation writes the order of steps. -/
theorem exec_sched {i : Instr} {s t : State} (h : exec i s = .next t) : t.sched = s.sched := by
  have hs := exec_withSched i s s.sched
  rw [show ({ s with sched := s.sched } : State) = s from rfl, h, andThen_next] at hs
  have ht := Host.Outcome.next.inj hs
  rw [ht]

/-- A step takes exactly one agent off the order of steps. -/
theorem step_sched {s t : State} (h : step s = .next t) : t.sched = s.sched.tail := by
  unfold step at h
  split at h
  · exact exec_sched h
  · cases h; rfl

theorem execAll_append (as bs : List Instr) (s : State) : execAll (as ++ bs) s = andThen (execAll as s) (execAll bs) := by
  induction as generalizing s with
  | nil => rfl
  | cons a as ih =>
    rw [List.cons_append, execAll, execAll, andThen_assoc]
    exact congrArg (andThen (exec a s)) (funext ih)

theorem execAll_withSched (is : List Instr) (s : State) (as : List Agent) :
    execAll is { s with sched := as } = andThen (execAll is s) fun t => .next { t with sched := as } := by
  induction is generalizing s with
  | nil => rfl
  | cons i is ih => simp only [execAll, exec_withSched, andThen_assoc, andThen_next, ih]

@[simp] theorem stepN_zero (s : State) : stepN 0 s = .next s := rfl
theorem stepN_succ (n : Nat) (s : State) : stepN (n + 1) s = andThen (step s) (stepN n) := rfl
@[simp] theorem trace_zero (s : State) : trace 0 s = [] := rfl
theorem trace_succ {n : Nat} {s t : State} (h : step s = .next t) : trace (n + 1) s = s.taken.toList ++ trace n t := by
  simp [trace, h]

/-- A stream operation in CONFIG is held: nothing changes (R180, R200). -/
theorem exec_held {i : Instr} {s : State} (hi : (isEnc i || isDec i) = true) (hm : s.blk.mode = .config) : exec i s = .next s := by
  cases i with
  | encSym c => exact whenRunning_config hm _
  | encEom g => exact whenRunning_config hm _
  | decByte b => exact whenRunning_config hm _
  | decEnd g => exact whenRunning_config hm _
  | _ => exact absurd hi (by simp [isEnc, isDec, encode, tokenAgent])

/-- A step does the operation it takes, if any, and advances the order of steps. -/
theorem step_does_taken {s t : State} (h : step s = .next t) : execAll s.taken.toList s = .next { t with sched := s.sched } := by
  unfold step at h
  unfold State.taken
  split at h
  · rename_i i hf
    have hs : exec i s = .next { t with sched := s.sched } := by
      rw [show s = { s.advance with sched := s.sched } from rfl, exec_withSched, h]
      rfl
    cases hh : ((isEnc i || isDec i) && decide (s.blk.mode = .config))
    · rw [hf, Option.filter_some, hh]
      simp [execAll, hs]
    · have hm := Bool.and_eq_true_iff.1 hh
      rw [hf, Option.filter_some, hh]
      exact (exec_held hm.1 (of_decide_eq_true hm.2)).symm.trans hs
  · rename_i hf
    cases h
    simp [hf, execAll]

/-- A run is its operations done in order: only the model's order of steps is different (R272; log entry 1). -/
theorem execAll_trace {n : Nat} {s t : State} (h : stepN n s = .next t) :
    execAll (trace n s) s = .next { t with sched := s.sched } := by
  induction n generalizing s with
  | zero => cases h; rfl
  | succ n ih =>
    obtain ⟨u, hu, ht⟩ := andThen_eq_next h
    rw [trace_succ hu, execAll_append, step_does_taken hu, andThen_next, execAll_withSched, ih ht, andThen_next]

/-! ## The premises on tables speak of LUTW, NODE, ROOT and SENT alone (R40) -/

theorem descend_congr {k l : Block} (hn : l.node = k.node) (i : Idx) (p : Bits) : l.descend i p = k.descend i p := by
  induction p generalizing i with
  | nil => rfl
  | cons b bs ih =>
    have hw : l.nodeWord i = k.nodeWord i := by simp only [Block.nodeWord, hn]
    have hl : l.leaf i = k.leaf i := by simp only [Block.leaf, hw]
    have hc : l.child i b = k.child i b := by simp only [Block.child, Block.child0, Block.child1, hw]
    simp only [Block.descend, hl, hc, ih]

theorem leafAt_congr {k l : Block} (hn : l.node = k.node) (hr : l.root = k.root) (p : Bits) (c : Sym) :
    l.LeafAt p c ↔ k.LeafAt p c := by
  simp only [Block.LeafAt, Block.nodeAt, descend_congr hn, hr, Block.leaf, Block.sym, Block.nodeWord, hn]

/-- Two blocks with the same tables, ROOT and SENT are CONSISTENT together, whatever their modes and unit state. -/
theorem consistent_congr {k l : Block} (hl : l.lutw = k.lutw) (hn : l.node = k.node) (hr : l.root = k.root)
    (hs : l.sent = k.sent) (h : Consistent k) : Consistent l := by
  have hv : ∀ c, l.valid c = k.valid c := fun c => by simp only [Block.valid, Block.lutWord, hl]
  have hb : ∀ c, l.bit c = k.bit c := fun c => funext fun j => by simp only [Block.bit, Block.lutWord, hl]
  have hc : ∀ c, l.code c = k.code c := fun c => by simp only [Block.code, hb, Block.len, Block.lutWord, hl]
  have ha := leafAt_congr hn hr
  refine ⟨⟨fun p q i hp hq => h.trie.tree p q i ?_ ?_, ?_, ?_⟩, ?_, ?_⟩
  · simpa only [Block.nodeAt, descend_congr hn, hr] using hp
  · simpa only [Block.nodeAt, descend_congr hn, hr] using hq
  · simpa only [ha] using h.trie.distinct
  · simpa only [ha, hs] using h.trie.sentinel
  · simpa only [ha, hv] using h.valid_iff
  · simpa only [ha, hc] using h.code_eq

/-! ## What a run is -/

/-- What a list of operations must be to be a run. -/
theorem isRun_iff (ops : List Instr) : IsRun ops = true ↔ ∃ rest, ops = .reset :: rest ∧ Instr.reset ∉ rest := by
  cases ops with
  | nil => simp [IsRun]
  | cons i rest =>
    simp only [IsRun, Bool.and_eq_true, decide_eq_true_eq, List.all_eq_true, List.cons.injEq]
    constructor
    · rintro ⟨rfl, h⟩
      exact ⟨rest, ⟨rfl, rfl⟩, fun hm => h _ hm rfl⟩
    · rintro ⟨_, ⟨rfl, rfl⟩, h⟩
      exact ⟨rfl, fun j hj e => h (e ▸ hj)⟩

/-- CLEAN_START with `execAll_trace`: what a run leaves is what its operations after the RESET leave from the reset block (R42). -/
theorem runs_from_reset {s t : State} {run : List Instr} (h : Runs s run t) :
    ∃ rest, run = .reset :: rest ∧ Instr.reset ∉ rest ∧
      execAll rest { s with blk := Block.reset } = .next { t with sched := s.sched } := by
  obtain ⟨hr, n, hn, rfl⟩ := h
  obtain ⟨rest, he, hm⟩ := (isRun_iff _).1 hr
  have hx := execAll_trace hn
  rw [he] at hx
  exact ⟨rest, he, hm, hx⟩

end Sys2Proof.Machine
end

