-- ==== Sys2Proof/Tests/Slice0.lean ====
section
/-! SUPPORT. Tests of one decoding or one step each, their expected results taken from spec/95_test_vectors.md (the vector is named) or
from the cited rule, and for every statement with hypotheses a state and operands that meet them. -/

namespace Sys2Proof.Tests

open Sys2Proof.Machine

/-! ## Helpers -/

/-- The outcome is a next state that satisfies `p`. -/
def holdsAfter (r : Result) (p : State → Bool) : Bool :=
  match r with
  | .next t => p t
  | .fault _ => false
  | .refused _ => false

theorem next_of_holdsAfter {r : Result} {p : State → Bool} (h : holdsAfter r p = true) : ∃ t, r = .next t ∧ p t = true := by
  cases r with
  | next t => exact ⟨t, rfl, h⟩
  | fault e => exact nomatch e
  | refused e => exact nomatch h

/-- Image T1 (corpus "aaabbc", 95 Part 2), locked. -/
def blkT1 : Block :=
  { Block.reset with
    mode := .run
    root := 6#9
    lutw := [(0x1000, 0x80000003#32), (0x1001, 0x80000000#32), (0x1610, 0x80000001#32), (0x1620, 0x80000002#32),
      (0x1621, 0xC0000000#32), (0x1630, 0x80000003#32), (0x1631, 0xA0000000#32)]
    node := [(0x2000, 0x80000000#32), (0x2001, 0x80000061#32), (0x2002, 0x80000062#32), (0x2003, 0x80000063#32),
      (0x2004, 0x00000003#32), (0x2005, 0x00040002#32), (0x2006, 0x00010005#32)] }

/-- Image T3 (corpus "aaaa", 95 Part 2), locked. -/
def blkT3 : Block :=
  { Block.reset with
    mode := .run
    root := 2#9
    lutw := [(0x1000, 0x80000001#32), (0x1610, 0x80000001#32), (0x1611, 0x80000000#32)]
    node := [(0x2000, 0x80000000#32), (0x2001, 0x80000061#32), (0x2002, 0x00000001#32)] }

/-- Image T4 (the empty corpus, 95 Part 2), locked. -/
def blkT4 : Block :=
  { Block.reset with
    mode := .run
    lutw := [(0x1000, 0x80000000#32)]
    node := [(0x2000, 0x80000000#32)] }

/-- A root that is a leaf of a symbol other than SENT: WF_ROOT is false (R215). -/
def blkBadRoot : Block := { Block.reset with mode := .run, node := [(0x2000, 0x80000061#32)] }

/-- A block with an environment that has presented nothing. -/
def stateOf (k : Block) : State := { State.reset with blk := k }

/-! ## WellFormed -/

theorem test_wf_refuses_lutRsv_k8 : WellFormed (.cfgWrLutRsv 0x61#8 8#4 0#32) = false := by decide
theorem test_wf_refuses_unmapped_root : WellFormed (.cfgWrUnmapped 0x0003#16 0#32) = false := by decide
theorem test_wf_refuses_unmapped_lut : WellFormed (.cfgWrUnmapped 0x1000#16 0#32) = false := by decide
theorem test_wf_refuses_unmapped_node : WellFormed (.cfgWrUnmapped 0x21FF#16 0#32) = false := by decide
theorem test_wf_accepts_boundaries :
    WellFormed (.cfgWrLutRsv 0xFF#8 9#4 0#32) = true ∧ WellFormed (.cfgWrLutRsv 0#8 15#4 0#32) = true ∧
    WellFormed (.cfgWrUnmapped 0x0004#16 0#32) = true ∧ WellFormed (.cfgWrUnmapped 0x0FFF#16 0#32) = true ∧
    WellFormed (.cfgWrUnmapped 0x2200#16 0#32) = true ∧ WellFormed (.cfgWrUnmapped 0xFFFF#16 0#32) = true := by decide

/-! ## Decoding, one word per constructor, written out from R91 to R93 and R105 -/

theorem test_decode_reset : decode .reset = .reset := rfl
theorem test_decode_encSym : decode (.encIn 0b0_01100001#9) = .encSym 0x61#8 := by decide
theorem test_decode_encEom : decode (.encIn 0b1_00000001#9) = .encEom 0x01#8 := by decide
theorem test_decode_decByte : decode (.decIn 0b0_01110110#9) = .decByte 0x76#8 := by decide
theorem test_decode_decEnd : decode (.decIn 0b1_11111111#9) = .decEnd 0xFF#8 := by decide
theorem test_decode_cfgWrCtrl :
    decode (.cfg 0b1_0000000000000000_00000000000000000000000000000001#49) = .cfgWrCtrl 1#32 := by decide
theorem test_decode_cfgWrStatus :
    decode (.cfg 0b1_0000000000000001_00000000000000000000000000000000#49) = .cfgWrStatus 0#32 := by decide
theorem test_decode_cfgWrSent :
    decode (.cfg 0b1_0000000000000010_11111111111111111111111101000001#49) = .cfgWrSent 0xFFFFFF41#32 := by decide
theorem test_decode_cfgWrRoot :
    decode (.cfg 0b1_0000000000000011_00000000000000000000000000000110#49) = .cfgWrRoot 6#32 := by decide
theorem test_decode_cfgWrLutK07 :
    decode (.cfg 0b1_0001_01100010_0_111_11000000000000000000000000000000#49) = .cfgWrLutK07 0x62#8 7#3 0xC0000000#32 := by decide
theorem test_decode_cfgWrLutK8 :
    decode (.cfg 0b1_0001_01100001_1_000_00010010001101000101011001111000#49) = .cfgWrLutK8 0x61#8 0x12345678#32 := by decide
theorem test_decode_cfgWrLutRsv :
    decode (.cfg 0b1_0001_01100001_1_001_00000000000000000000000000000101#49) = .cfgWrLutRsv 0x61#8 9#4 5#32 := by decide
theorem test_decode_cfgWrNode :
    decode (.cfg 0b1_0010000_111111111_11011110101011011011111011101111#49) = .cfgWrNode 511#9 0xDEADBEEF#32 := by decide
theorem test_decode_cfgWrUnmapped :
    decode (.cfg 0b1_0010001000000000_00000000000000000000000000000001#49) = .cfgWrUnmapped 0x2200#16 1#32 := by decide
theorem test_decode_cfgRd :
    decode (.cfg 0b0_0000000000000001_00000000000000000000000000000111#49) = .cfgRd 0x0001#16 7#32 := by decide
/-- A number that is no token is rejected by name. -/
theorem test_too_wide_is_rejected :
    encInToken 0x200 = .error .encInTooWide ∧ decInToken 0x200 = .error .decInTooWide ∧
    cfgToken 0x2000000000000 = .error .cfgTooWide ∧ resetToken 1 = .error .resetHasNoBits := by decide
theorem test_table_words :
    decodeTableWord 0 0 = some .reset ∧ decodeTableWord 16 0x061 = some (.encSym 0x61#8) ∧
    decodeTableWord 16 0x200 = none ∧ decodeTableWord 56 0x1000000000001 = some (.cfgWrCtrl 1#32) := by decide

/-! ## One step per operation -/

/-- V16, V90: RESET in a message drops OBUF, ACC, NB and appends nothing. -/
theorem test_reset_mid_message :
    holdsAfter (exec .reset (stateOf { blkT1 with acc := 3#8, nb := 2#3, unk := true }))
      (fun t => t == stateOf Block.reset) = true := by decide
/-- R183's example: 'b' (code "11") from an empty packer gives NB = 2, ACC = 0x03. -/
theorem test_encSym_b :
    holdsAfter (exec (.encSym 0x62#8) (stateOf blkT1))
      (fun t => t.blk.acc == 0x03#8 && t.blk.nb == 2#3 && t.blk.obuf == [] && t.encOut == []) = true := by decide
/-- V80: 'z' after "ab" appends 0x817A and enters DRAIN with nothing pending. -/
theorem test_encSym_unknown :
    holdsAfter (exec (.encSym 0x7A#8) (stateOf { blkT1 with acc := 3#8, nb := 3#3 }))
      (fun t => t.encOut.map OutToken.word == [0x817A#16] && t.blk.emode == .drain && t.blk.nb == 0#3 && t.blk.acc == 0#8 &&
        t.blk.status == 0x43#32) = true := by decide
/-- P1: EOM after "abc" (ACC = 0x1D, NB = 6) commits 0x76, 0x00, END_OK. -/
theorem test_encEom_commits :
    holdsAfter (exec (.encEom 0#8) (stateOf { blkT1 with acc := 0x1D#8, nb := 6#3 }))
      (fun t => t.encOut.map OutToken.word == [0x0076#16, 0x0000#16, 0x4000#16] && t.blk.nb == 0#3 && t.blk.obuf == []) = true := by
  decide
/-- V49: EOM straight after RESET and LOCK reports UnknownSymbol(SENT), EMODE stays NORMAL. -/
theorem test_encEom_no_sentinel :
    holdsAfter (exec (.encEom 0#8) (stateOf { Block.reset with mode := .run }))
      (fun t => t.encOut.map OutToken.word == [0x8100#16] && t.blk.emode == .normal && t.blk.unk) = true := by decide
/-- R203's example: BYTE 0x76 from IDLE decodes a, b, c and stands at node 4. -/
theorem test_decByte_walks :
    holdsAfter (exec (.decByte 0x76#8) (stateOf blkT1))
      (fun t => t.blk.dbuf == [0x61#8, 0x62#8, 0x63#8] && t.blk.cur == 4#9 && t.blk.dmode == .walk && t.decOut == []) = true := by
  decide
/-- R205's example, P2: BYTE 0x00 from there commits the result, ends in SKIP with CUR = 0. -/
theorem test_decByte_commits :
    holdsAfter (exec (.decByte 0x00#8)
        (stateOf { blkT1 with cur := 4#9, dbuf := [0x61#8, 0x62#8, 0x63#8], dmode := .walk }))
      (fun t => t.decOut.map OutToken.word == [0x61#16, 0x62#16, 0x63#16, 0x4000#16] && t.blk.dbuf == [] &&
        t.blk.dmode == .skip && t.blk.cur == 0#9) = true := by decide
/-- V41: the empty frame is TruncatedInput, STATUS 0x00000005. -/
theorem test_decEnd_empty :
    holdsAfter (exec (.decEnd 0#8) (stateOf blkT1))
      (fun t => t.decOut.map OutToken.word == [0x8200#16] && t.blk.status == 0x5#32) = true := by decide
/-- V76: with the degenerate image the empty frame is the empty message, STATUS 0x00000031. -/
theorem test_decEnd_degenerate :
    holdsAfter (exec (.decEnd 0#8) (stateOf blkT4))
      (fun t => t.decOut.map OutToken.word == [0x4000#16] && t.blk.status == 0x31#32) = true := by decide
/-- V12: a write of 3 to CTRL locks. V11: 0xFFFFFFFE does not. -/
theorem test_lock :
    holdsAfter (exec (.cfgWrCtrl 0x3#32) State.reset) (fun t => t.blk.status == 0x1#32) = true := by decide
theorem test_no_lock :
    holdsAfter (exec (.cfgWrCtrl 0xFFFFFFFE#32) State.reset) (fun t => t.blk.status == 0x0#32) = true := by decide
/-- V9. -/
theorem test_status_write :
    holdsAfter (exec (.cfgWrStatus 0#32) State.reset) (fun t => t.blk.status == 0x8#32) = true := by decide
/-- V2. -/
theorem test_sent_write :
    holdsAfter (exec (.cfgWrSent 0xFFFFFF41#32) State.reset) (fun t => t.blk.cfgRead 0x0002#16 == 0x41#32) = true := by decide
/-- V3. -/
theorem test_root_write :
    holdsAfter (exec (.cfgWrRoot 0xFFFFFFFF#32) State.reset) (fun t => t.blk.cfgRead 0x0003#16 == 0x1FF#32) = true := by decide
/-- R166's example: after both writes code('c') = "101"; here the second. -/
theorem test_lut_write :
    holdsAfter (exec (.cfgWrLutK07 0x63#8 1#3 0xA0000000#32) (stateOf { Block.reset with lutw := [(0x1630, 0x80000003#32)] }))
      (fun t => t.blk.valid 0x63#8 && t.blk.code 0x63#8 == [true, false, true]) = true := by decide
/-- V13: refused in RUN. -/
theorem test_lut_write_in_run :
    holdsAfter (exec (.cfgWrLutK07 0x61#8 0#3 0#32) (stateOf blkT1))
      (fun t => t.blk.cfgRead 0x1610#16 == 0x80000001#32 && t.blk.status == 0x9#32) = true := by decide
/-- V4. -/
theorem test_lut_write_k8 :
    holdsAfter (exec (.cfgWrLutK8 0x61#8 0x12345678#32) State.reset)
      (fun t => t.blk.cfgRead 0x1618#16 == 0x12345678#32) = true := by decide
/-- V5. -/
theorem test_lut_reserved :
    holdsAfter (exec (.cfgWrLutRsv 0x61#8 9#4 5#32) State.reset)
      (fun t => t.blk.cfgRead 0x1619#16 == 0#32 && t.blk.status == 0x8#32) = true := by decide
/-- V6. -/
theorem test_node_write :
    holdsAfter (exec (.cfgWrNode 0x1FF#9 0xDEADBEEF#32) State.reset)
      (fun t => t.blk.cfgRead 0x21FF#16 == 0xDEADBEEF#32) = true := by decide
/-- V7. -/
theorem test_unmapped_write :
    holdsAfter (exec (.cfgWrUnmapped 0x2200#16 1#32) State.reset)
      (fun t => t.blk.cfgRead 0x2200#16 == 0#32 && t.blk.status == 0x8#32) = true := by decide
/-- V1. -/
theorem test_read_status : holdsAfter (exec (.cfgRd 0x0001#16 0#32) State.reset) (fun t => t.cfgOut == [0#32]) = true := by decide
/-- P2: STATUS during WALK is 0x00000101. -/
theorem test_read_status_walking :
    holdsAfter (exec (.cfgRd 0x0001#16 0#32) (stateOf { blkT1 with dmode := .walk })) (fun t => t.cfgOut == [0x101#32]) = true := by
  decide
/-- The step takes the token at the head of the chosen port; V17: before LOCK it is held. -/
theorem test_step_takes_head :
    holdsAfter (step { stateOf blkT1 with encIn := [0x062#9, 0x100#9], sched := [.enc, .dec] })
      (fun t => t.encIn == [0x100#9] && t.blk.nb == 2#3 && t.sched == [.dec]) = true := by decide
theorem test_step_holds :
    holdsAfter (step { State.reset with encIn := [0x061#9], sched := [.enc] }) (fun t => t.encIn == [0x061#9] && t.blk == Block.reset)
      = true := by decide
theorem test_withFetchWord :
    holdsAfter (step (State.reset.withFetchWord 16 0x100)) (fun t => t.encOut == [.endErr 1#4 0#8] && t.encIn == []) = true := by
  decide
/-- T4 of 95 Part 2: the image of the empty corpus, from the construction. -/
theorem test_image_T4 :
    tableImage [] 0#8 = [wr 0x0002#16 0#32, wr 0x0003#16 0#32, wr 0x2000#16 0x80000000#32, wr 0x1000#16 0x80000000#32] := by decide
/-- T3 of 95 Part 2. -/
theorem test_image_T3 :
    tableImage [0x61#8, 0x61#8, 0x61#8, 0x61#8] 0#8 =
      [wr 0x0002#16 0#32, wr 0x0003#16 2#32, wr 0x2000#16 0x80000000#32, wr 0x2001#16 0x80000061#32, wr 0x2002#16 1#32,
       wr 0x1000#16 0x80000001#32, wr 0x1001#16 0#32, wr 0x1610#16 0x80000001#32, wr 0x1611#16 0x80000000#32] := by decide


/-! ## Runs (R272, R273) -/

/-- A second RESET makes no run, so it fails CLEAN_START. -/
theorem test_second_reset_is_no_run :
    CleanStart (.reset :: (tableImage [] 0#8 ++ [.reset, lockOp])) = false ∧ CleanStart (newOps [] 0#8) = true := by decide
/-- LOCKED_ONCE asks for the LOCK after the image, and for one LOCK. -/
theorem test_lock_before_the_image :
    LockedOnce (tableImage [] 0#8) (.reset :: lockOp :: tableImage [] 0#8) = false ∧
    LockedOnce (tableImage [] 0#8) (newOps [] 0#8 ++ [lockOp]) = false ∧
    LockedOnce (tableImage [] 0#8) (newOps [] 0#8) = true ∧ ImageIs (tableImage [] 0#8) (newOps [] 0#8) = true := by decide
/-- A SYM token held before LOCK is no operation of the run; RESET, then LOCK, are. -/
theorem test_run_leaves_out_what_is_held :
    trace 3 { State.reset with sched := [.reset, .enc, .cfg], encIn := [0x061#9], cfgIn := [0x1000000000001#49] } =
      [.reset, .cfgWrCtrl 1#32] := by decide

/-! ## For every statement with hypotheses, states and operands that meet them (witness_<statement>) -/

/-- The decoder inside a frame at node 4 with three symbols pending, the encoder with two bits pending, a byte waiting. -/
def walking : State :=
  { stateOf { blkT1 with cur := 4#9, dbuf := [0x61#8, 0x62#8, 0x63#8], dmode := .walk, acc := 3#8, nb := 2#3 } with
    decIn := [0x000#9]
    sched := [.dec] }

theorem walking_unitInv : UnitInv walking.blk where
  acc := by decide
  drain := fun h => absurd h (by decide)
  config := fun h => absurd h (by decide)
  dbuf := fun h => absurd rfl h
  walk := fun _ => ⟨by decide, ⟨[true, false], by decide⟩, by decide⟩
  sentinel := by decide

theorem blkT1_tablesWf : TablesWf blkT1 where
  lutw := by decide
  lutwKeys := by decide
  node := by decide
  nodeKeys := by decide

/-- Image T1 loaded and not yet locked. -/
def loading : State := stateOf { blkT1 with mode := .config }

theorem witness_DecodeOfEncodeIsTheOperation :
    WellFormed (.cfgWrLutRsv 0xFF#8 9#4 1#32) = true ∧ WellFormed (.cfgWrUnmapped 0xFFFF#16 1#32) = true ∧
    WellFormed (.encEom 0xFF#8) = true := by decide

/-- Each clause at the ends of its range. -/
theorem witness_WritesDecodeByTheAddressMap :
    (0x0000#16).toNat = 0x0000 ∧ (0x0001#16).toNat = 0x0001 ∧ (0x0002#16).toNat = 0x0002 ∧ (0x0003#16).toNat = 0x0003 ∧
    (0x1000#16).toNat = 0x1000 + 16 * (0#8).toNat + (0#3).toNat ∧
    (0x1FF7#16).toNat = 0x1000 + 16 * (255#8).toNat + (7#3).toNat ∧
    (0x1008#16).toNat = 0x1000 + 16 * (0#8).toNat + 8 ∧ (0x1FF8#16).toNat = 0x1000 + 16 * (255#8).toNat + 8 ∧
    (9 ≤ (9#4).toNat ∧ (0x1009#16).toNat = 0x1000 + 16 * (0#8).toNat + (9#4).toNat) ∧
    (9 ≤ (15#4).toNat ∧ (0x1FFF#16).toNat = 0x1000 + 16 * (255#8).toNat + (15#4).toNat) ∧
    (0x2000#16).toNat = 0x2000 + (0#9).toNat ∧ (0x21FF#16).toNat = 0x2000 + (511#9).toNat ∧
    (0x0004 ≤ (0x0004#16).toNat ∧ (0x0FFF#16).toNat ≤ 0x0FFF) ∧
    (0x2200 ≤ (0x2200#16).toNat ∧ 0x2200 ≤ (0xFFFF#16).toNat) := by decide

/-- What the decoder gives at those ends. -/
theorem test_write_decoding_at_the_boundaries :
    wr 0x1000#16 5#32 = .cfgWrLutK07 0#8 0#3 5#32 ∧ wr 0x1FF7#16 5#32 = .cfgWrLutK07 255#8 7#3 5#32 ∧
    wr 0x1008#16 5#32 = .cfgWrLutK8 0#8 5#32 ∧ wr 0x1FF8#16 5#32 = .cfgWrLutK8 255#8 5#32 ∧
    wr 0x1009#16 5#32 = .cfgWrLutRsv 0#8 9#4 5#32 ∧ wr 0x1FFF#16 5#32 = .cfgWrLutRsv 255#8 15#4 5#32 ∧
    wr 0x2000#16 5#32 = .cfgWrNode 0#9 5#32 ∧ wr 0x21FF#16 5#32 = .cfgWrNode 511#9 5#32 ∧
    wr 0x0004#16 5#32 = .cfgWrUnmapped 0x0004#16 5#32 ∧ wr 0x0FFF#16 5#32 = .cfgWrUnmapped 0x0FFF#16 5#32 ∧
    wr 0x2200#16 5#32 = .cfgWrUnmapped 0x2200#16 5#32 ∧ wr 0xFFFF#16 5#32 = .cfgWrUnmapped 0xFFFF#16 5#32 := by decide

theorem witness_StreamTokensDecodeByValue :
    (0x000#9).toNat ≤ 0x0FF ∧ (0x0FF#9).toNat ≤ 0x0FF ∧ 0x100 ≤ (0x100#9).toNat ∧ 0x100 ≤ (0x1FF#9).toNat := by decide

theorem witness_OutputTokenWords : (OutToken.data 5#8).word = (OutToken.data 5#8).word := rfl

/-- One state meets the enc, dec and cfg clauses' queue hypotheses at once, each agent in turn first. -/
theorem witness_StepRunsTheHeadToken :
    ({ State.reset with sched := [.reset] } : State).sched = .reset :: [] ∧
    (({ walking with sched := [.enc], encIn := [0x061#9] } : State).sched = .enc :: [] ∧
      ({ walking with sched := [.enc], encIn := [0x061#9] } : State).encIn = 0x061#9 :: []) ∧
    (walking.sched = .dec :: [] ∧ walking.decIn = 0x000#9 :: []) ∧
    (({ State.reset with sched := [.cfg], cfgIn := [0x1000000000001#49] } : State).sched = .cfg :: [] ∧
      ({ State.reset with sched := [.cfg], cfgIn := [0x1000000000001#49] } : State).cfgIn = 0x1000000000001#49 :: []) := by decide

theorem witness_NoTokenNoStep :
    State.reset.sched = [] ∧
    (({ State.reset with sched := [.enc] } : State).sched = .enc :: [] ∧ ({ State.reset with sched := [.enc] } : State).encIn = []) ∧
    (({ State.reset with sched := [.dec] } : State).sched = .dec :: [] ∧ ({ State.reset with sched := [.dec] } : State).decIn = []) ∧
    (({ State.reset with sched := [.cfg] } : State).sched = .cfg :: [] ∧ ({ State.reset with sched := [.cfg] } : State).cfgIn = []) := by
  decide

theorem witness_PowerOnIsAReset : ∃ t, exec .reset walking = .next t := ⟨_, rfl⟩

theorem witness_StepKeepsTheUnitInvariants : ∃ t, UnitInv walking.blk ∧ step walking = .next t := by
  obtain ⟨t, h, -⟩ := next_of_holdsAfter (r := step walking) (p := fun _ => true) (by decide)
  exact ⟨t, walking_unitInv, h⟩

theorem witness_StepKeepsTheTablesCanonical :
    ∃ t, TablesWf loading.blk ∧
      step { loading with cfgIn := [0x1161000000000#49], sched := [.cfg] } = .next t ∧ t.blk.lutw ≠ loading.blk.lutw := by
  obtain ⟨t, h, hp⟩ := next_of_holdsAfter (r := step { loading with cfgIn := [0x1161000000000#49], sched := [.cfg] })
    (p := fun t => t.blk.lutw != loading.blk.lutw) (by decide)
  exact ⟨t, ⟨blkT1_tablesWf.1, blkT1_tablesWf.2, blkT1_tablesWf.3, blkT1_tablesWf.4⟩, h, by simpa using hp⟩

theorem witness_TablesFrozenInRun :
    ∃ t, walking.blk.mode = .run ∧ Instr.cfgWrNode 6#9 0#32 ≠ .reset ∧ exec (.cfgWrNode 6#9 0#32) walking = .next t :=
  ⟨_, rfl, by decide, rfl⟩

theorem witness_ModeChangesOnlyByLockAndReset :
    (∃ t, exec (.cfgWrCtrl 1#32) loading = .next t ∧ loading.blk.mode = .config ∧ t.blk.mode = .run) ∧
    ∃ t, exec .reset walking = .next t ∧ walking.blk.mode = .run ∧ t.blk.mode = .config :=
  ⟨⟨_, rfl, rfl, rfl⟩, ⟨_, rfl, rfl, rfl⟩⟩

theorem witness_FlagsAreStickyAndSetByTheirEvents :
    (∃ t, exec .reset walking = .next t) ∧ ∃ t, exec (.encSym 0x7A#8) walking = .next t ∧ Instr.encSym 0x7A#8 ≠ .reset := by
  obtain ⟨t, h, -⟩ := next_of_holdsAfter (r := exec (.encSym 0x7A#8) walking) (p := fun _ => true) (by decide)
  exact ⟨⟨_, rfl⟩, t, h, by decide⟩

theorem witness_StreamsGrowByWholeResults : ∃ t, step walking = .next t ∧ t.decOut ≠ walking.decOut := by
  obtain ⟨t, h, hp⟩ := next_of_holdsAfter (r := step walking) (p := fun t => t.decOut != walking.decOut) (by decide)
  exact ⟨t, h, by simpa using hp⟩

theorem witness_DecodedOutputNeverHoldsTheSentinel :
    ∃ t r, UnitInv walking.blk ∧ exec (.decByte 0#8) walking = .next t ∧ t.decOut = walking.decOut ++ r ∧ r ≠ [] := by
  obtain ⟨t, h, hp⟩ := next_of_holdsAfter (r := exec (.decByte 0#8) walking) (p := fun t => t.decOut != []) (by decide)
  exact ⟨t, t.decOut, walking_unitInv, h, rfl, by simpa using hp⟩

theorem witness_OnlyTwoCausesAreEverReported :
    (∃ t r, step { walking with encIn := [0x07A#9], sched := [.enc] } = .next t ∧ OutToken.endErr 1#4 0x7A#8 ∈ r ∧
      t.encOut = walking.encOut ++ r) ∧
    ∃ t r, step { walking with decIn := [0x100#9] } = .next t ∧ OutToken.endErr 2#4 0#8 ∈ r ∧ t.decOut = walking.decOut ++ r := by
  obtain ⟨t, h, hp⟩ := next_of_holdsAfter (r := step { walking with encIn := [0x07A#9], sched := [.enc] })
    (p := fun t => t.encOut == [.endErr 1#4 0x7A#8]) (by decide)
  obtain ⟨u, h', hp'⟩ := next_of_holdsAfter (r := step { walking with decIn := [0x100#9] })
    (p := fun t => t.decOut == [.endErr 2#4 0#8]) (by decide)
  exact ⟨⟨t, [.endErr 1#4 0x7A#8], h, by simp, by simpa [walking, stateOf, State.reset] using hp⟩,
    ⟨u, [.endErr 2#4 0#8], h', by simp, by simpa [walking, stateOf, State.reset] using hp'⟩⟩

theorem witness_WriteInRunIsRefused : walking.blk.mode = .run := rfl

/-- In CONFIG, for LockWriteEntersRun, SentWriteStoresLowByte, RootWriteStoresLowNineBits. -/
theorem witness_LockWriteEntersRun : State.reset.blk.mode = .config := rfl
theorem witness_SentWriteStoresLowByte : loading.blk.mode = .config := rfl
theorem witness_RootWriteStoresLowNineBits : loading.blk.mode = .config := rfl

theorem loading_tablesWf : TablesWf loading.blk := ⟨blkT1_tablesWf.1, blkT1_tablesWf.2, blkT1_tablesWf.3, blkT1_tablesWf.4⟩

theorem witness_LutWriteStoresTheWord :
    loading.blk.mode = .config ∧ TablesWf loading.blk ∧ (0x1610 : Nat) ≠ lutKey 0x61#8 (7#3).toNat ∧
    (8 ≤ 8 ∧ ¬ (0x61#8 = (0x61#8 : Sym) ∧ 8 = (7#3).toNat)) ∧ (0 ≤ 8 ∧ ¬ (0xFF#8 = (0x61#8 : Sym) ∧ 0 = 8)) :=
  ⟨rfl, loading_tablesWf, by decide, by decide, by decide⟩

theorem witness_NodeWriteStoresTheWord :
    loading.blk.mode = .config ∧ TablesWf loading.blk ∧ (0x2000 : Nat) ≠ nodeKey 511#9 ∧ (0#9 : Idx) ≠ 511#9 :=
  ⟨rfl, loading_tablesWf, by decide, by decide⟩

/-- Each clause of the read map at the ends of its range. -/
theorem witness_ReadRespondsByAddress :
    (0x0000#16).toNat = 0x0000 ∧ (0x0001#16).toNat = 0x0001 ∧ (0x0002#16).toNat = 0x0002 ∧ (0x0003#16).toNat = 0x0003 ∧
    (0 ≤ 8 ∧ (0x1000#16).toNat = 0x1000 + 16 * (0#8).toNat + 0) ∧ (8 ≤ 8 ∧ (0x1FF8#16).toNat = 0x1000 + 16 * (255#8).toNat + 8) ∧
    (9 ≤ 9 ∧ 9 ≤ 15 ∧ (0x1009#16).toNat = 0x1000 + 16 * (0#8).toNat + 9) ∧
    (9 ≤ 15 ∧ 15 ≤ 15 ∧ (0x1FFF#16).toNat = 0x1000 + 16 * (255#8).toNat + 15) ∧
    (0x2000#16).toNat = 0x2000 + (0#9).toNat ∧ (0x21FF#16).toNat = 0x2000 + (511#9).toNat ∧
    (0x0004 ≤ (0x0004#16).toNat ∧ (0x0FFF#16).toNat ≤ 0x0FFF) ∧ 0x2200 ≤ (0x2200#16).toNat ∧ 0x2200 ≤ (0xFFFF#16).toNat := by
  decide

/-- The read at those ends, from image T1: CTRL, the first and last LUT words, the reserved words, the nodes, the holes. -/
theorem test_read_map_at_the_boundaries :
    blkT1.cfgRead 0x0000#16 = 0#32 ∧ blkT1.cfgRead 0x1000#16 = 0x80000003#32 ∧ blkT1.cfgRead 0x1FF8#16 = 0#32 ∧
    blkT1.cfgRead 0x1009#16 = 0#32 ∧ blkT1.cfgRead 0x1FFF#16 = 0#32 ∧ blkT1.cfgRead 0x2000#16 = 0x80000000#32 ∧
    blkT1.cfgRead 0x2006#16 = 0x00010005#32 ∧ blkT1.cfgRead 0x0004#16 = 0#32 ∧ blkT1.cfgRead 0x2200#16 = 0#32 := by decide

theorem witness_ReservedAndUnmappedWritesAreRefused :
    (9 ≤ (9#4).toNat ∧ 9 ≤ (15#4).toNat) ∧
    (0x0004 ≤ (0x0004#16).toNat ∧ (0x0FFF#16).toNat ≤ 0x0FFF ∧ 0x2200 ≤ (0x2200#16).toNat ∧ 0x2200 ≤ (0xFFFF#16).toNat) ∧
    walking.blk.mode = .run ∧
    (0x1000 ≤ (0x1009#16).toNat ∧ (0x1009#16).toNat ≤ 0x1FFF ∧ 9 ≤ (0x1009#16).toNat % 16) ∧
    (0x1000 ≤ (0x1FFF#16).toNat ∧ (0x1FFF#16).toNat ≤ 0x1FFF ∧ 9 ≤ (0x1FFF#16).toNat % 16) := by decide

theorem witness_ReadReturnsTheLatestWrite :
    loading.blk.mode = .config ∧ TablesWf loading.blk ∧
    (isLutKey (0x1FF8#16).toNat = true ∧ isNodeKey (0x21FF#16).toNat = true) ∧
    (0x1FF8#16 = (0x1FF8#16 : Addr)) ∧ (0x21FF#16 : Addr) ≠ 0x1FF8#16 :=
  ⟨rfl, loading_tablesWf, by decide, rfl, by decide⟩

theorem witness_CfgOperationsFrame :
    (∃ t, tokenAgent (encode (.cfgWrNode 6#9 0#32)) = .cfg ∧ exec (.cfgWrNode 6#9 0#32) loading = .next t) ∧
    (∀ d, Instr.cfgWrNode 6#9 0#32 ≠ .cfgWrCtrl d) ∧ (∀ d, Instr.cfgWrNode 6#9 0#32 ≠ .cfgWrSent d) ∧
    (∀ d, Instr.cfgWrNode 6#9 0#32 ≠ .cfgWrRoot d) ∧ (∀ a g, Instr.cfgWrNode 6#9 0#32 ≠ .cfgRd a g) ∧
    storedAddr (.cfgWrNode 6#9 0#32) ≠ some 0x2005 :=
  ⟨⟨_, rfl, rfl⟩, nofun, nofun, nofun, nofun, by decide⟩

theorem witness_StreamTokensHeldInConfigAcceptedInRun :
    State.reset.blk.mode = .config ∧
    (walking.blk.mode = .run ∧ walking.blk.leaf walking.blk.root = false) ∧
    ((stateOf blkT4).blk.mode = .run ∧ (stateOf blkT4).blk.leaf (stateOf blkT4).blk.root = true ∧
      (stateOf blkT4).blk.sym (stateOf blkT4).blk.root = (stateOf blkT4).blk.sent) := by decide

theorem witness_SymbolIsEncoded :
    walking.blk.mode = .run ∧ walking.blk.emode = .normal ∧ walking.blk.valid 0x63#8 = true := by decide
theorem witness_UnknownSymbolFailsTheMessage :
    walking.blk.mode = .run ∧ walking.blk.emode = .normal ∧ walking.blk.valid 0x7A#8 = false := by decide
theorem witness_DrainIgnoresUntilEom :
    (stateOf { blkT1 with emode := .drain, unk := true }).blk.mode = .run ∧
    (stateOf { blkT1 with emode := .drain, unk := true }).blk.emode = .drain := by decide
theorem witness_EomCommitsThePackedMessage :
    walking.blk.mode = .run ∧ walking.blk.emode = .normal ∧ walking.blk.valid walking.blk.sent = true := by decide
theorem witness_EomWithoutSentinelEntryFails :
    (stateOf { blkT1 with sent := 0x7A#8 }).blk.mode = .run ∧ (stateOf { blkT1 with sent := 0x7A#8 }).blk.emode = .normal ∧
    (stateOf { blkT1 with sent := 0x7A#8 }).blk.valid (stateOf { blkT1 with sent := 0x7A#8 }).blk.sent = false := by decide
theorem witness_EmptyCodePushesNothing :
    (stateOf blkT4).blk.mode = .run ∧ (stateOf blkT4).blk.emode = .normal ∧
    ((stateOf blkT4).blk.valid 0#8 = true ∧ (stateOf blkT4).blk.len 0#8 = 0) ∧
    (stateOf blkT4).blk.degenE = true ∧ (stateOf blkT4).blk.acc = 0#8 ∧ (stateOf blkT4).blk.nb = 0#3 ∧
    (stateOf blkT4).blk.obuf = [] := by decide

theorem witness_EncoderFrame :
    (∃ t, exec (.encSym 0x63#8) walking = .next t ∧ t ≠ walking) ∧ ∃ t, exec (.encEom 1#8) walking = .next t ∧ t ≠ walking := by
  obtain ⟨t, h, hp⟩ := next_of_holdsAfter (r := exec (.encSym 0x63#8) walking) (p := fun t => t != walking) (by decide)
  obtain ⟨u, h', hp'⟩ := next_of_holdsAfter (r := exec (.encEom 1#8) walking) (p := fun t => t != walking) (by decide)
  exact ⟨⟨t, h, by simpa using hp⟩, ⟨u, h', by simpa using hp'⟩⟩

theorem witness_MessageYieldsItsOneResult :
    (stateOf blkT1).blk.mode = .run ∧ (stateOf blkT1).blk.emode = .normal ∧ (stateOf blkT1).blk.nb = 0#3 ∧
    (stateOf blkT1).blk.acc = 0#8 ∧ (stateOf blkT1).blk.obuf = [] := by decide

/-- At the first and the last bit of a byte. -/
theorem witness_UnpackOfPackPadsWithZeros :
    ([0x76#8, 0x01#8] : List Byte)[1]? = some 0x01#8 ∧ (0 ≤ 7 ∧ 7 ≤ 7) := by decide

theorem witness_ByteStartsAFrame :
    (stateOf blkT1).blk.mode = .run ∧ (stateOf blkT1).blk.dmode = .idle ∧
    (stateOf blkT1).blk.leaf (stateOf blkT1).blk.root = false := by decide
theorem witness_WalkFollowsTheDecompressLoop : walking.blk.dmode = .walk := rfl
theorem witness_ByteContinuesTheFrame :
    walking.blk.mode = .run ∧ walking.blk.dmode = .walk ∧ walking.blk.leaf walking.blk.root = false := by decide
theorem witness_AfterTheSentinelTheFrameIsIgnored :
    (stateOf { blkT4 with dmode := .skip }).blk.mode = .run ∧ (stateOf { blkT4 with dmode := .skip }).blk.dmode = .skip ∧
    (stateOf { blkT4 with dmode := .skip }).blk.sym (stateOf { blkT4 with dmode := .skip }).blk.root =
      (stateOf { blkT4 with dmode := .skip }).blk.sent := by decide
theorem witness_LeafRootGivesTheEmptyMessage :
    (stateOf blkT4).blk.mode = .run ∧ (stateOf blkT4).blk.dmode = .idle ∧
    (stateOf blkT4).blk.leaf (stateOf blkT4).blk.root = true ∧
    (stateOf blkT4).blk.sym (stateOf blkT4).blk.root = (stateOf blkT4).blk.sent := by decide
theorem witness_EndWithoutSentinelIsTruncatedInput :
    ((stateOf blkT1).blk.mode = .run ∧ (stateOf blkT1).blk.dmode = .idle ∧
      (stateOf blkT1).blk.leaf (stateOf blkT1).blk.root = false) ∧
    (walking.blk.mode = .run ∧ walking.blk.dmode = .walk ∧ walking.blk.leaf walking.blk.root = false) := by decide
theorem witness_LeafRootWithoutSentinelIsRefused :
    (stateOf blkBadRoot).blk.mode = .run ∧ (stateOf blkBadRoot).blk.leaf (stateOf blkBadRoot).blk.root = true ∧
    (stateOf blkBadRoot).blk.sym (stateOf blkBadRoot).blk.root ≠ (stateOf blkBadRoot).blk.sent ∧
    (walking.blk.mode = .run ∧ walking.blk.leaf walking.blk.root = false) := by decide

theorem witness_DecoderFrame :
    (∃ t, exec (.decByte 0#8) walking = .next t ∧ t ≠ walking) ∧ ∃ t, exec (.decEnd 1#8) walking = .next t ∧ t ≠ walking := by
  obtain ⟨t, h, hp⟩ := next_of_holdsAfter (r := exec (.decByte 0#8) walking) (p := fun t => t != walking) (by decide)
  obtain ⟨u, h', hp'⟩ := next_of_holdsAfter (r := exec (.decEnd 1#8) walking) (p := fun t => t != walking) (by decide)
  exact ⟨⟨t, h, by simpa using hp⟩, ⟨u, h', by simpa using hp'⟩⟩

theorem witness_FrameYieldsItsOneResult :
    ((stateOf blkT1).blk.mode = .run ∧ (stateOf blkT1).blk.dmode = .idle ∧ (stateOf blkT1).blk.dbuf = [] ∧
      (stateOf blkT1).blk.leaf (stateOf blkT1).blk.root = false) ∧
    ((stateOf blkT4).blk.mode = .run ∧ (stateOf blkT4).blk.dmode = .idle ∧ (stateOf blkT4).blk.dbuf = [] ∧
      (stateOf blkT4).blk.sym (stateOf blkT4).blk.root = (stateOf blkT4).blk.sent) := by decide

/-! ### CONSISTENT is met by image T3 -/

/-- The paths of image T3 and the nodes at them. -/
theorem blkT3_nodeAt {p : Bits} {i : Idx} (h : blkT3.nodeAt p = some i) :
    (p = [] ∧ i = 2#9) ∨ (p = [false] ∧ i = 0#9) ∨ (p = [true] ∧ i = 1#9) := by
  have root : blkT3.leaf blkT3.root = false := by decide
  have c0 : blkT3.child blkT3.root false = 0#9 := by decide
  have c1 : blkT3.child blkT3.root true = 1#9 := by decide
  have l0 : blkT3.leaf 0#9 = true := by decide
  have l1 : blkT3.leaf 1#9 = true := by decide
  match p with
  | [] => exact .inl ⟨rfl, by simpa [Block.nodeAt, Block.descend, blkT3] using h.symm⟩
  | [false] => simp [Block.nodeAt, Block.descend, root, c0] at h; simp [h]
  | [true] => simp [Block.nodeAt, Block.descend, root, c1] at h; simp [h]
  | false :: b :: bs => simp [Block.nodeAt, Block.descend, root, c0, l0] at h
  | true :: b :: bs => simp [Block.nodeAt, Block.descend, root, c1, l1] at h

theorem blkT3_leafAt {p : Bits} {c : Sym} : blkT3.LeafAt p c ↔ (p = [false] ∧ c = 0#8) ∨ (p = [true] ∧ c = 0x61#8) := by
  constructor
  · rintro ⟨i, hp, hl, hs⟩
    rcases blkT3_nodeAt hp with ⟨rfl, rfl⟩ | ⟨rfl, rfl⟩ | ⟨rfl, rfl⟩
    · exact absurd hl (by decide)
    · exact .inl ⟨rfl, hs.symm⟩
    · exact .inr ⟨rfl, hs.symm⟩
  · rintro (⟨rfl, rfl⟩ | ⟨rfl, rfl⟩)
    · exact ⟨0#9, by decide⟩
    · exact ⟨1#9, by decide⟩

theorem blkT3_consistent : Consistent blkT3 where
  trie :=
    { tree := fun p q i hp hq => by
        rcases blkT3_nodeAt hp with ⟨rfl, rfl⟩ | ⟨rfl, rfl⟩ | ⟨rfl, rfl⟩ <;>
          rcases blkT3_nodeAt hq with ⟨rfl, h⟩ | ⟨rfl, h⟩ | ⟨rfl, h⟩ <;> first | rfl | exact absurd h (by decide)
      distinct := fun p q c hp hq => by
        rcases blkT3_leafAt.1 hp with ⟨rfl, rfl⟩ | ⟨rfl, rfl⟩ <;>
          rcases blkT3_leafAt.1 hq with ⟨rfl, h⟩ | ⟨rfl, h⟩ <;> first | rfl | exact absurd h (by decide)
      sentinel := ⟨[false], blkT3_leafAt.2 (.inl ⟨rfl, rfl⟩)⟩ }
  valid_iff := by
    have key : ∀ c : Sym, blkT3.valid c = true ↔ c = 0#8 ∨ c = 0x61#8 := by decide
    intro c
    simp [key, blkT3_leafAt, exists_or]
  code_eq := fun p c h => by
    rcases blkT3_leafAt.1 h with ⟨rfl, rfl⟩ | ⟨rfl, rfl⟩ <;> decide

theorem witness_RoundTripGivesTheMessageBack :
    Consistent (stateOf blkT3).blk ∧ (stateOf blkT3).blk.mode = .run ∧ (stateOf blkT3).blk.emode = .normal ∧
    (stateOf blkT3).blk.nb = 0#3 ∧ (stateOf blkT3).blk.acc = 0#8 ∧ (stateOf blkT3).blk.obuf = [] ∧
    (stateOf blkT3).blk.dmode = .idle ∧ (stateOf blkT3).blk.dbuf = [] ∧
    ∀ c ∈ [0x61#8, 0x61#8], (stateOf blkT3).blk.valid c = true ∧ c ≠ (stateOf blkT3).blk.sent :=
  ⟨blkT3_consistent, rfl, rfl, rfl, rfl, rfl, rfl, rfl, by decide⟩

/-- The premises of the round trip (R273) are met together: image T3, then LOCK, then the message "aa". -/
theorem roundTripPremises_met :
    RoundTripPremises (tableImage [0x61#8, 0x61#8, 0x61#8, 0x61#8] 0#8)
      (newOps [0x61#8, 0x61#8, 0x61#8, 0x61#8] 0#8 ++ [.encSym 0x61#8, .encSym 0x61#8, .encEom 0#8]) where
  cleanStart := by decide
  imageIs := by decide
  consistent := by
    obtain ⟨t, h, hp⟩ := next_of_holdsAfter
      (r := execAll (.reset :: (beforeLock (newOps [0x61#8, 0x61#8, 0x61#8, 0x61#8] 0#8 ++
        [.encSym 0x61#8, .encSym 0x61#8, .encEom 0#8])).filter isCfgWrite) State.reset)
      (p := fun t => t.blk == { blkT3 with mode := .config }) (by decide)
    have hb : t.blk = { blkT3 with mode := .config } := by simpa using hp
    refine ⟨t, h, ?_, ?_⟩
    · rw [hb]
      exact consistent_congr (k := blkT3) rfl rfl rfl rfl blkT3_consistent
    · rw [hb]; decide
  lockedOnce := by decide
  framed := by decide

theorem witness_EncoderAndDecoderStepsCommute : isEnc (.encEom 0#8) = true ∧ isDec (.decByte 0x76#8) = true := by decide

theorem witness_FiniteCapacitiesRefuse :
    walking.blk.mode = .run ∧ (walking.blk.emode = .normal ∧ walking.blk.valid 0x63#8 = true) ∧
    walking.blk.valid walking.blk.sent = true ∧ (walking.blk.leaf walking.blk.root = false ∧ walking.blk.dmode = .walk) ∧
    ((stateOf blkT1).blk.leaf (stateOf blkT1).blk.root = false ∧ (stateOf blkT1).blk.dmode = .idle) ∧
    (({ obufCap := some 0, dbufCap := some 2, emptyIsOk := true } : Config.Params).obufCap = some 0 ∧
      ({ obufCap := some 0, dbufCap := some 2, emptyIsOk := true } : Config.Params).dbufCap = some 2 ∧
      ({ obufCap := some 0, dbufCap := some 2, emptyIsOk := true } : Config.Params).emptyIsOk = true) := by decide

/-- At those capacities the next DEC.BYTE is refused, at 3 it is not: three symbols are pending (R75). -/
theorem test_finite_dbuf :
    dbufPeak (walking.blk.walkByte 0#8).1 (walking.blk.walkByte 0#8).2 = 3 := by decide

theorem witness_ConstructedCodesArePrefixFree :
    (0x00#8, [false]) ∈ (Trie.node 2 5 (.leaf 0 0x00#8 1) (.leaf 1 0x61#8 4)).codes ∧
    (0x61#8, [true]) ∈ (Trie.node 2 5 (.leaf 0 0x00#8 1) (.leaf 1 0x61#8 4)).codes ∧ (0x00#8 : Sym) ≠ 0x61#8 := by decide

/-- T3 of 95 Part 2: root index 2, weight 5, zero-child the sentinel. -/
theorem witness_ConstructedTrieFitsTheTables :
    buildTrie (histogram [0x61#8, 0x61#8, 0x61#8, 0x61#8] 0x00#8) =
      some (.node 2 5 (.leaf 0 0x00#8 1) (.leaf 1 0x61#8 4)) := by decide

end Sys2Proof.Tests
end

section
/-! PROOFS. RESET gives every element its value (`10_state.md` section 9, R42), and the STATUS word bit by bit (section 7, R37, R38). -/

namespace Sys2Proof.Machine

/-! ## RESET -/

/-- The next state of RESET (`70_reset_and_hazards.md` R260, R261). -/
theorem exec_reset (s : State) : exec .reset s = .next (s.setBlk Block.reset) := rfl

@[simp] theorem Block.reset_lutWord (c : Sym) (k : Nat) : Block.reset.lutWord c k = 0#32 := Table.read_nil _

@[simp] theorem Block.reset_nodeWord (i : Idx) : Block.reset.nodeWord i = 0#32 := Table.read_nil _

/-- Settles O9: RESET replaces the block by the table of R42 and touches no sequence of the environment; the words of the two tables
are those of tables that list nothing. -/
theorem resetGivesEveryElementItsValue : Obligations.ResetGivesEveryElementItsValue := by
  intro s
  refine ⟨s.setBlk Block.reset, exec_reset s, rfl, rfl, rfl, Block.reset_lutWord, Block.reset_nodeWord, ?others⟩
  case others => simp [Block.reset]

/-! ## The bits of STATUS -/

@[simp] theorem Mode.bit_eq_true (m : Mode) : m.bit = true ↔ m = .run := by cases m <;> decide

@[simp] theorem EMode.bit_eq_true (m : EMode) : m.bit = true ↔ m = .drain := by cases m <;> decide

theorem DMode.code_bit0 (m : DMode) : m.code.getLsbD 0 = true ↔ m = .walk := by cases m <;> decide

theorem DMode.code_bit1 (m : DMode) : m.code.getLsbD 1 = true ↔ m = .skip := by cases m <;> decide

theorem Block.degenE_eq_true (k : Block) : k.degenE = true ↔ k.valid k.sent = true ∧ k.len k.sent = 0 := by
  simp [Block.degenE]

/-- `bs` lists the bits of `x` from bit 0 up; the bits beyond the list are 0. -/
def BitsFromLow {w : Nat} (x : BitVec w) (bs : List Bool) : Prop := ∀ j, x.getLsbD j = bs.getD j false

/-- A bit appended on the right becomes bit 0. -/
theorem BitsFromLow.append_ofBool {w : Nat} {x : BitVec w} {bs : List Bool} (h : BitsFromLow x bs) (b : Bool) :
    BitsFromLow (x ++ BitVec.ofBool b) (b :: bs)
  | 0 => BitVec.getLsbD_concat_zero
  | j + 1 => BitVec.getLsbD_concat_succ.trans (h j)

/-- The two bits of a DMODE code below zeros (R37, bits 31:10 and 9:8). -/
theorem bitsFromLow_zero_append (n : Nat) (c : BitVec 2) : BitsFromLow (0#n ++ c) [c.getLsbD 0, c.getLsbD 1]
  | 0 => by rw [BitVec.getLsbD_append]; rfl
  | 1 => by rw [BitVec.getLsbD_append]; rfl
  | j + 2 => by simp [BitVec.getLsbD_append]

/-- The table of R37, from bit 0 up: RUN, UNK, TRUNC, CFGERR, DEGEN_E, DEGEN_D, EDRAIN, a reserved bit, DMODE, then zeros. -/
theorem Block.status_bits (k : Block) :
    BitsFromLow k.status [k.mode.bit, k.unk, k.trunc, k.cfgerr, k.degenE, k.degenD, k.emode.bit, false,
      k.dmode.code.getLsbD 0, k.dmode.code.getLsbD 1] :=
  bitsFromLow_zero_append 22 k.dmode.code
    |>.append_ofBool false
    |>.append_ofBool k.emode.bit
    |>.append_ofBool k.degenD
    |>.append_ofBool k.degenE
    |>.append_ofBool k.cfgerr
    |>.append_ofBool k.trunc
    |>.append_ofBool k.unk
    |>.append_ofBool k.mode.bit

/-! ## The commands at the address of STATUS -/

/-- A read consumes its command and answers with the word at the address (`41_config_ops.md` R170). -/
theorem exec_cfgRd (a : Addr) (g : Word) (s : State) :
    exec (.cfgRd a g) s = .next (s.acceptCfg.respond (s.blk.cfgRead a)) := rfl

theorem Block.cfgRead_status (k : Block) : k.cfgRead 0x0001#16 = k.status := rfl

theorem exec_cfgRd_status (g : Word) (s : State) :
    exec (.cfgRd 0x0001#16 g) s = .next (s.acceptCfg.respond s.blk.status) := by
  rw [exec_cfgRd, Block.cfgRead_status]

/-- A write that names no word ends the same way in both modes: CFGERR alone (`41_config_ops.md` R161, R163). -/
theorem cfgWrite_setCfgerr (s : State) : cfgWrite s (fun k => k.setCfgerr) = .next (s.acceptCfg.setBlk s.blk.setCfgerr) := by
  rcases cfgWrite_cases s fun k => k.setCfgerr with ⟨-, h⟩ | ⟨-, h⟩ <;> exact h

theorem exec_cfgWrStatus (d : Word) (s : State) :
    exec (.cfgWrStatus d) s = .next (s.acceptCfg.setBlk s.blk.setCfgerr) := cfgWrite_setCfgerr s

/-- Settles O29: the word read at 0x0001 is the STATUS word, whose bits are the table of R37; a write there only sets
CFGERR, in CONFIG by its own rule and in RUN because every write is refused. -/
theorem statusIsAssembledBitByBit : Obligations.StatusIsAssembledBitByBit := by
  refine ⟨fun s g => ?read, fun s d => ?write⟩
  case read =>
    have bits := s.blk.status_bits
    refine ⟨s.blk.status, exec_cfgRd_status g s, ?run, bits 1, bits 2, bits 3, ?degenE, bits 5, ?edrain, bits 7, ?walk, ?skip, ?zeros⟩
    case run => exact (bits 0).symm ▸ Mode.bit_eq_true s.blk.mode
    case degenE => exact (bits 4).symm ▸ Block.degenE_eq_true s.blk
    case edrain => exact (bits 6).symm ▸ EMode.bit_eq_true s.blk.emode
    case walk => exact (bits 8).symm ▸ DMode.code_bit0 s.blk.dmode
    case skip => exact (bits 9).symm ▸ DMode.code_bit1 s.blk.dmode
    case zeros => exact fun j hj => (bits j).trans (List.getD_eq_default _ _ hj)
  case write => exact exec_cfgWrStatus d s

end Sys2Proof.Machine
end

section
/-! PROOFS. `unpack` bit by bit, and `unpack` after `pack` (`30_encoding.md` section 3, R101, R102). -/

namespace Sys2Proof.Machine

/-! ## `unpack`: eight bits per byte, bit 7 first -/

@[simp] theorem byteBits_length (y : Byte) : (byteBits y).length = 8 := rfl

theorem byteBits_getElem? (y : Byte) : ∀ i ≤ 7, (byteBits y)[i]? = some (y.getLsbD (7 - i))
  | 0, _ | 1, _ | 2, _ | 3, _ | 4, _ | 5, _ | 6, _ | 7, _ => rfl
  | _ + 8, h => absurd h (by omega)

@[simp] theorem unpack_nil : unpack [] = [] := rfl

@[simp] theorem unpack_cons (y : Byte) (ys : List Byte) : unpack (y :: ys) = byteBits y ++ unpack ys := rfl

theorem unpack_length (ys : List Byte) : (unpack ys).length = 8 * ys.length := by
  induction ys with
  | nil => rfl
  | cons y ys ih => simp [ih]; omega

theorem unpack_getElem? (ys : List Byte) (j : Nat) (y : Byte) (i : Nat) (hy : ys[j]? = some y) (hi : i ≤ 7) :
    (unpack ys)[8 * j + i]? = some (y.getLsbD (7 - i)) := by
  induction ys generalizing j with
  | nil => simp at hy
  | cons z ys ih =>
    rw [unpack_cons]
    cases j with
    | zero =>
      obtain rfl : z = y := by simpa using hy
      rw [Nat.mul_zero, Nat.zero_add, List.getElem?_append_left (by simp; omega)]
      exact byteBits_getElem? z i hi
    | succ j =>
      have skip : 8 * (j + 1) + i - (byteBits z).length = 8 * j + i := by simp; omega
      rw [List.getElem?_append_right (by simp; omega), skip]
      exact ih j (by simpa using hy)

/-! ## `pack`: a byte as the sum of its bits -/

/-- The sum by which R101 makes a number of `n` bits, `f 0` the most significant. -/
def bitSum (n : Nat) (f : Nat → Bool) : Nat :=
  ((List.range n).map fun i => if f i then 2 ^ (n - 1 - i) else 0).sum

/-- A further bit shifts the sum left by one and stands in the freed bit 0. -/
theorem bitSum_succ (n : Nat) (f : Nat → Bool) : bitSum (n + 1) f = Nat.bit (f n) (bitSum n f) := by
  have shift : ∀ i ∈ List.range n, (if f i then 2 ^ (n + 1 - 1 - i) else 0) = 2 * if f i then 2 ^ (n - 1 - i) else 0 := by
    intro i hi
    have lt := List.mem_range.mp hi
    have weight : n + 1 - 1 - i = n - 1 - i + 1 := by omega
    rw [weight, pow_succ']
    split <;> rfl
  rw [bitSum, List.range_succ, List.map_append, List.sum_append, List.map_congr_left shift, List.sum_map_mul_left, ← bitSum]
  cases h : f n <;> simp [Nat.bit, h]

theorem bitSum_testBit (n : Nat) (f : Nat → Bool) (i : Nat) (hi : i < n) : (bitSum n f).testBit (n - 1 - i) = f i := by
  induction n with
  | zero => omega
  | succ n ih =>
    rw [bitSum_succ]
    rcases Nat.lt_succ_iff_lt_or_eq.mp hi with lt | rfl
    · have above : n + 1 - 1 - i = n - 1 - i + 1 := by omega
      rw [above, Nat.testBit_bit_succ, ih lt]
    · simp

theorem pack_length (q : Bits) : (pack q).length = (q.length + 7) / 8 := by simp [pack]

theorem pack_getElem? (q : Bits) (k : Nat) (hk : k < (q.length + 7) / 8) :
    (pack q)[k]? = some (BitVec.ofNat 8 (bitSum 8 fun i => q.getD (8 * k + i) false)) := by
  simp [pack, bitSum, hk]

/-! ## `unpack` after `pack` -/

/-- Bit `p` of the unpacked bytes is bit `p` of Q, and 0 past the end of Q. -/
theorem unpack_pack_getElem? (q : Bits) (p : Nat) (hp : p < 8 * ((q.length + 7) / 8)) :
    (unpack (pack q))[p]? = some (q.getD p false) := by
  have low : p % 8 < 8 := Nat.mod_lt p (by decide)
  have byte := pack_getElem? q (p / 8) (by omega)
  calc (unpack (pack q))[p]?
      = (unpack (pack q))[8 * (p / 8) + p % 8]? := by rw [Nat.div_add_mod]
    _ = some ((BitVec.ofNat 8 (bitSum 8 fun i => q.getD (8 * (p / 8) + i) false)).getLsbD (7 - p % 8)) :=
        unpack_getElem? _ _ _ _ byte (by omega)
    _ = some ((bitSum 8 fun i => q.getD (8 * (p / 8) + i) false).testBit (8 - 1 - p % 8)) := by
        rw [BitVec.getLsbD_ofNat, decide_eq_true (by omega), Bool.true_and]
    _ = some (q.getD p false) := by rw [bitSum_testBit _ _ _ low, Nat.div_add_mod]

theorem append_zeros_getElem? (q : Bits) (m p : Nat) (hp : p < q.length + m) :
    (q ++ List.replicate m false)[p]? = some (q.getD p false) := by
  rcases Nat.lt_or_ge p q.length with inside | past
  · rw [List.getElem?_append_left inside, List.getD_eq_getElem _ _ inside, List.getElem?_eq_getElem inside]
  · rw [List.getElem?_append_right past, List.getD_eq_default _ _ past, List.getElem?_replicate_of_lt (by omega)]

theorem unpack_pack (q : Bits) : unpack (pack q) = q ++ List.replicate ((8 - q.length % 8) % 8) false := by
  have len : 8 * ((q.length + 7) / 8) = q.length + (8 - q.length % 8) % 8 := by omega
  refine List.ext_getElem? fun p => ?_
  rcases Nat.lt_or_ge p (8 * ((q.length + 7) / 8)) with inside | past
  · rw [unpack_pack_getElem? q p inside, append_zeros_getElem? q _ p (len ▸ inside)]
  · rw [List.getElem?_eq_none (by rwa [unpack_length, pack_length]), List.getElem?_eq_none (by simp; omega)]

/-- Settles O44: `unpack` bit by bit, and, since R101 makes each byte as the sum of its eight bits, `unpack` after `pack` gives Q back
up to its length and zeros from there to the next byte boundary. -/
theorem unpackOfPackPadsWithZeros : Obligations.UnpackOfPackPadsWithZeros :=
  ⟨unpack_length, unpack_getElem?, unpack_nil, unpack_pack⟩

end Sys2Proof.Machine
end

section
/-! PROOFS. The histogram of a corpus (`40_table_construction.md` R131 to R133): a scan step and the forcing of the sentinel are one
update of an ascending list, at one symbol. -/

namespace Sys2Proof.Machine

/-! ## Reading a histogram -/

/-- The symbols that have an entry. -/
def Histogram.symbols (h : Histogram) : List Sym := h.map Prod.fst

/-- Entries in strictly ascending order of symbol. -/
def Histogram.Ascending (h : Histogram) : Prop := h.Pairwise fun e f => e.1.toNat < f.1.toNat

@[simp] theorem Histogram.mem_symbols_nil (c : Sym) : c ∈ Histogram.symbols [] ↔ False := by simp [symbols]

@[simp] theorem Histogram.mem_symbols_cons (d : Sym) (n : Nat) (h : Histogram) (c : Sym) :
    c ∈ Histogram.symbols ((d, n) :: h) ↔ c = d ∨ c ∈ Histogram.symbols h := by simp [symbols]

@[simp] theorem Histogram.weight_nil (c : Sym) : Histogram.weight [] c = 0 := rfl

@[simp] theorem Histogram.weight_cons_self (d : Sym) (n : Nat) (h : Histogram) : Histogram.weight ((d, n) :: h) d = n := by
  simp [weight]

theorem Histogram.weight_cons_of_ne {c d : Sym} (ne : c ≠ d) (n : Nat) (h : Histogram) :
    Histogram.weight ((d, n) :: h) c = Histogram.weight h c := by
  simp [weight, ne.symm]

theorem Histogram.weight_of_notMem {h : Histogram} {c : Sym} (notMem : c ∉ h.symbols) : h.weight c = 0 := by
  induction h with
  | nil => rfl
  | cons e h ih =>
    obtain ⟨neHead, notTail⟩ := not_or.mp (mt (mem_symbols_cons e.1 e.2 h c).mpr notMem)
    exact (weight_cons_of_ne neHead e.2 h).trans (ih notTail)

theorem Histogram.ascending_nil : Histogram.Ascending [] := List.Pairwise.nil

theorem Histogram.ascending_cons {d : Sym} {n : Nat} {h : Histogram} :
    Histogram.Ascending ((d, n) :: h) ↔ (∀ c ∈ h.symbols, d.toNat < c.toNat) ∧ h.Ascending := by
  simp [Ascending, symbols]

/-- A symbol below the first one has no entry. -/
theorem Histogram.Ascending.notMem_of_lt_head {c d : Sym} {n : Nat} {h : Histogram}
    (asc : Histogram.Ascending ((d, n) :: h)) (lt : c.toNat < d.toNat) : c ∉ Histogram.symbols ((d, n) :: h) := by
  intro mem
  rcases (mem_symbols_cons d n h c).mp mem with rfl | mem
  · exact lt_irrefl _ lt
  · exact lt_asymm lt ((ascending_cons.mp asc).1 c mem)

/-! ## One update for both operations -/

/-- The weight of one symbol goes through `g`, from 0 where it has no entry. -/
def Histogram.update (g : Nat → Nat) : Histogram → Sym → Histogram
  | [], c => [(c, g 0)]
  | (d, n) :: h, c =>
    if c.toNat < d.toNat then (c, g 0) :: (d, n) :: h
    else if c = d then (d, g n) :: h
    else (d, n) :: Histogram.update g h c

theorem Histogram.count_eq_update (h : Histogram) (c : Sym) : h.count c = h.update (· + 1) c := by
  induction h with
  | nil => rfl
  | cons e h ih => rw [count, ih]; rfl

theorem Histogram.forceOne_eq_update (h : Histogram) (c : Sym) : h.forceOne c = h.update (fun _ => 1) c := by
  induction h with
  | nil => rfl
  | cons e h ih => rw [forceOne, ih]; rfl

/-- Where a symbol stands relative to the first entry: the three branches of an update. -/
theorem Sym.lt_or_eq_or_gt (c d : Sym) : c.toNat < d.toNat ∨ c = d ∨ d.toNat < c.toNat := by
  rw [BitVec.toNat_eq]
  exact lt_trichotomy _ _

theorem Sym.ne_of_gt {c d : Sym} (gt : d.toNat < c.toNat) : c ≠ d := ne_of_apply_ne BitVec.toNat gt.ne'

section
variable {c d : Sym} (g : Nat → Nat) (n : Nat) (h : Histogram)

theorem Histogram.update_cons_of_lt (lt : c.toNat < d.toNat) :
    Histogram.update g ((d, n) :: h) c = (c, g 0) :: (d, n) :: h := if_pos lt

theorem Histogram.update_cons_self : Histogram.update g ((d, n) :: h) d = (d, g n) :: h := by simp [update]

theorem Histogram.update_cons_of_gt (gt : d.toNat < c.toNat) :
    Histogram.update g ((d, n) :: h) c = (d, n) :: Histogram.update g h c := by
  rw [update, if_neg (lt_asymm gt), if_neg (Sym.ne_of_gt gt)]

end

theorem Histogram.mem_symbols_update (g : Nat → Nat) (h : Histogram) (c x : Sym) :
    x ∈ (h.update g c).symbols ↔ x = c ∨ x ∈ h.symbols := by
  induction h with
  | nil => simp [update]
  | cons e h ih =>
    obtain ⟨d, n⟩ := e
    rcases Sym.lt_or_eq_or_gt c d with lt | rfl | gt
    · rw [update_cons_of_lt g n h lt, mem_symbols_cons]
    · simp [update_cons_self]
    · rw [update_cons_of_gt g n h gt, mem_symbols_cons, ih, mem_symbols_cons, or_left_comm]

theorem Histogram.Ascending.update {h : Histogram} (asc : h.Ascending) (g : Nat → Nat) (c : Sym) : (h.update g c).Ascending := by
  induction h with
  | nil => exact List.pairwise_singleton _ _
  | cons e h ih =>
    obtain ⟨d, n⟩ := e
    obtain ⟨below, ascTail⟩ := ascending_cons.mp asc
    rcases Sym.lt_or_eq_or_gt c d with lt | rfl | gt
    · rw [update_cons_of_lt g n h lt, ascending_cons]
      refine ⟨fun x mem => ?_, asc⟩
      rcases (mem_symbols_cons d n h x).mp mem with rfl | mem
      · exact lt
      · exact lt.trans (below x mem)
    · rw [update_cons_self, ascending_cons]
      exact ⟨below, ascTail⟩
    · rw [update_cons_of_gt g n h gt, ascending_cons]
      refine ⟨fun x mem => ?_, ih ascTail⟩
      rcases (mem_symbols_update g h c x).mp mem with rfl | mem
      · exact gt
      · exact below x mem

/-- Here the order is needed: where the symbol is put in front, no entry of it follows. -/
theorem Histogram.Ascending.weight_update_self {h : Histogram} (asc : h.Ascending) (g : Nat → Nat) (c : Sym) :
    (h.update g c).weight c = g (h.weight c) := by
  induction h with
  | nil => exact weight_cons_self c (g 0) []
  | cons e h ih =>
    obtain ⟨d, n⟩ := e
    rcases Sym.lt_or_eq_or_gt c d with lt | rfl | gt
    · rw [update_cons_of_lt g n h lt, weight_cons_self, weight_of_notMem (asc.notMem_of_lt_head lt)]
    · rw [update_cons_self, weight_cons_self, weight_cons_self]
    · have ne := Sym.ne_of_gt gt
      rw [update_cons_of_gt g n h gt, weight_cons_of_ne ne, weight_cons_of_ne ne, ih (ascending_cons.mp asc).2]

theorem Histogram.weight_update_of_ne (g : Nat → Nat) (h : Histogram) {c x : Sym} (ne : x ≠ c) :
    (h.update g c).weight x = h.weight x := by
  induction h with
  | nil => exact weight_cons_of_ne ne (g 0) []
  | cons e h ih =>
    obtain ⟨d, n⟩ := e
    rcases Sym.lt_or_eq_or_gt c d with lt | rfl | gt
    · rw [update_cons_of_lt g n h lt, weight_cons_of_ne ne]
    · rw [update_cons_self, weight_cons_of_ne ne, weight_cons_of_ne ne]
    · rw [update_cons_of_gt g n h gt]
      rcases eq_or_ne x d with rfl | neHead
      · rw [weight_cons_self, weight_cons_self]
      · rw [weight_cons_of_ne neHead, weight_cons_of_ne neHead, ih]

/-! ## The scan -/

theorem Histogram.mem_symbols_scan (corpus : List Sym) (h : Histogram) (x : Sym) :
    x ∈ Histogram.symbols (corpus.foldl Histogram.count h) ↔ x ∈ corpus ∨ x ∈ h.symbols := by
  induction corpus generalizing h with
  | nil => simp
  | cons c corpus ih =>
    rw [List.foldl_cons, ih, count_eq_update, mem_symbols_update, List.mem_cons, or_left_comm, or_assoc]

theorem Histogram.Ascending.scan {h : Histogram} (asc : h.Ascending) (corpus : List Sym) :
    Histogram.Ascending (corpus.foldl Histogram.count h) := by
  induction corpus generalizing h with
  | nil => exact asc
  | cons c corpus ih => exact ih (count_eq_update h c ▸ asc.update (· + 1) c)

theorem Histogram.Ascending.weight_scan {h : Histogram} (asc : h.Ascending) (corpus : List Sym) (x : Sym) :
    Histogram.weight (corpus.foldl Histogram.count h) x = h.weight x + corpus.count x := by
  induction corpus generalizing h with
  | nil => rfl
  | cons c corpus ih =>
    rw [List.foldl_cons, count_eq_update, ih (asc.update (· + 1) c)]
    rcases eq_or_ne x c with rfl | ne
    · rw [asc.weight_update_self, List.count_cons_self]; omega
    · rw [weight_update_of_ne _ _ ne, List.count_cons_of_ne ne.symm]

/-! ## The histogram of a corpus -/

/-- So a symbol has one entry, and the trie one leaf for it (R134). -/
theorem ascending_histogram (corpus : List Sym) (sentinel : Sym) : (histogram corpus sentinel).Ascending := by
  rw [histogram, Histogram.forceOne_eq_update]
  exact (Histogram.ascending_nil.scan corpus).update _ _

theorem weight_histogram (corpus : List Sym) (sentinel c : Sym) :
    (histogram corpus sentinel).weight c = if c = sentinel then 1 else corpus.count c := by
  rw [histogram, Histogram.forceOne_eq_update]
  split
  case isTrue eq => subst eq; exact (Histogram.ascending_nil.scan corpus).weight_update_self _ _
  case isFalse ne =>
    rw [Histogram.weight_update_of_ne _ _ ne, Histogram.ascending_nil.weight_scan, Histogram.weight_nil, Nat.zero_add]

theorem mem_symbols_histogram (corpus : List Sym) (sentinel c : Sym) :
    c ∈ (histogram corpus sentinel).symbols ↔ c = sentinel ∨ c ∈ corpus := by
  rw [histogram, Histogram.forceOne_eq_update, Histogram.mem_symbols_update, Histogram.mem_symbols_scan,
    Histogram.mem_symbols_nil, or_false]

theorem histogram_nil (sentinel : Sym) : histogram [] sentinel = [(sentinel, 1)] := rfl

/-- Settles O57: a scan step adds one to the weight of its symbol, the forcing of the sentinel makes that weight 1, and each leaves the
other weights alone; the first needs the ascending order, which both keep. -/
theorem histogramCountsAndForcesTheSentinel : Obligations.HistogramCountsAndForcesTheSentinel :=
  ⟨weight_histogram, mem_symbols_histogram, histogram_nil⟩

end Sys2Proof.Machine
end

section
/-! PROOFS. CFG commands by number: the fields of a command word, the decoder on the addresses of the address map, and the word a read
returns (`30_encoding.md` R93, R105; `20_memory.md` R61). -/

namespace Sys2Proof.Machine

/-! ## The fields of a command word (R93) -/

@[simp] theorem cfgWe_cfgWord (we : Bool) (a : Addr) (d : Word) : cfgWe (cfgWord we a d) = we := by
  have top : (cfgWord we a d).getLsbD (32 + 16) = (BitVec.ofBool we).getLsbD 0 := by
    rw [cfgWord, BitVec.getLsbD_append, if_neg (by decide), BitVec.getLsbD_append, if_neg (by decide)]
  exact top.trans (by simp)

@[simp] theorem cfgAddr_cfgWord (we : Bool) (a : Addr) (d : Word) : cfgAddr (cfgWord we a d) = a :=
  (BitVec.extractLsb'_append_eq_of_le (by decide)).trans BitVec.extractLsb'_append_eq_right

@[simp] theorem cfgData_cfgWord (we : Bool) (a : Addr) (d : Word) : cfgData (cfgWord we a d) = d :=
  BitVec.extractLsb'_append_eq_right

theorem decode_cfgWord_write (a : Addr) (d : Word) : decode (.cfg (cfgWord true a d)) = decodeWrite a d := by
  simp [decode, decodeCfg]

theorem decode_cfgWord_read (a : Addr) (g : Word) : decode (.cfg (cfgWord false a g)) = .cfgRd a g := by
  simp [decode, decodeCfg]

/-! ## The addresses of the tables as words and as numbers (R61) -/

theorem toNat_append_eq_add {m n : Nat} (x : BitVec m) (y : BitVec n) : (x ++ y).toNat = 2 ^ n * x.toNat + y.toNat := by
  rw [BitVec.toNat_append, ← Nat.shiftLeft_add_eq_or_of_lt y.isLt, Nat.shiftLeft_eq, Nat.mul_comm]

theorem toNat_field {w : Nat} (x : BitVec w) (lo n : Nat) : (x.extractLsb' lo n).toNat = x.toNat / 2 ^ lo % 2 ^ n := by
  rw [BitVec.extractLsb'_toNat, Nat.shiftRight_eq_div_pow]

theorem toNat_lutAddrWord (c : Sym) (k : BitVec 4) : (lutAddrWord c k).toNat = lutKey c k.toNat := by
  rw [lutAddrWord, toNat_append_eq_add, toNat_append_eq_add, lutKey, BitVec.toNat_ofNat]
  omega

theorem toNat_nodeAddrWord (i : Idx) : (nodeAddrWord i).toNat = nodeKey i := toNat_append_eq_add _ i

theorem ofNat_lutKey (c : Sym) (k : BitVec 4) : BitVec.ofNat 16 (lutKey c k.toNat) = lutAddrWord c k := by
  rw [← toNat_lutAddrWord, BitVec.ofNat_toNat, BitVec.setWidth_eq]

theorem ofNat_nodeKey (i : Idx) : BitVec.ofNat 16 (nodeKey i) = nodeAddrWord i := by
  rw [← toNat_nodeAddrWord, BitVec.ofNat_toNat, BitVec.setWidth_eq]

theorem lutAddrWord_tag (c : Sym) (k : BitVec 4) : (lutAddrWord c k).extractLsb' 12 4 = 0x1#4 :=
  (BitVec.extractLsb'_append_eq_of_le (by decide)).trans BitVec.extractLsb'_append_eq_left

theorem lutAddrWord_sym (c : Sym) (k : BitVec 4) : (lutAddrWord c k).extractLsb' 4 8 = c :=
  (BitVec.extractLsb'_append_eq_of_le (by decide)).trans BitVec.extractLsb'_append_eq_right

theorem lutAddrWord_low (c : Sym) (k : BitVec 4) : (lutAddrWord c k).extractLsb' 0 4 = k := BitVec.extractLsb'_append_eq_right

theorem lutAddrWord_low3 (c : Sym) (k : BitVec 4) : (lutAddrWord c k).extractLsb' 0 3 = k.extractLsb' 0 3 :=
  BitVec.extractLsb'_append_eq_of_add_le (by decide)

theorem lutAddrWord_bit3 (c : Sym) (k : BitVec 4) : (lutAddrWord c k).getLsbD 3 = k.getLsbD 3 := BitVec.getLsbD_append

/-- The addresses 0x1000 to 0x1FFF are those of the LUT words, reserved ones included. -/
theorem exists_eq_lutAddrWord {a : Addr} (lo : 0x1000 ≤ a.toNat) (hi : a.toNat ≤ 0x1FFF) : ∃ c k, a = lutAddrWord c k := by
  refine ⟨a.extractLsb' 4 8, a.extractLsb' 0 4, BitVec.eq_of_toNat_eq ?_⟩
  rw [toNat_lutAddrWord, lutKey, toNat_field, toNat_field]
  omega

theorem not_register {a : Addr} (h : 4 ≤ a.toNat) : a ≠ 0#16 ∧ a ≠ 1#16 ∧ a ≠ 2#16 ∧ a ≠ 3#16 := by
  refine ⟨?_, ?_, ?_, ?_⟩ <;> rintro rfl <;> exact absurd h (by decide)

/-! ## Writes, by address -/

/-- In 0x1000 to 0x1FFF the low four bits k choose the row: k below 8, k = 8, or reserved. -/
theorem decodeWrite_lutAddrWord (c : Sym) (k : BitVec 4) (d : Word) :
    decodeWrite (lutAddrWord c k) d =
      if k.getLsbD 3 = false then .cfgWrLutK07 c (k.extractLsb' 0 3) d
      else if k = 8#4 then .cfgWrLutK8 c d
      else .cfgWrLutRsv c k d := by
  obtain ⟨h0, h1, h2, h3⟩ := not_register (a := lutAddrWord c k) (by rw [toNat_lutAddrWord, lutKey]; omega)
  rw [decodeWrite, if_neg h0, if_neg h1, if_neg h2, if_neg h3, if_pos (lutAddrWord_tag c k), lutAddrWord_bit3, lutAddrWord_sym,
    lutAddrWord_low, lutAddrWord_low3]

theorem decodeWrite_lutK07 (c : Sym) (k : BitVec 3) (d : Word) :
    decodeWrite (lutAddrWord c (0#1 ++ k)) d = .cfgWrLutK07 c k d := by
  have bit3 : (0#1 ++ k).getLsbD 3 = false := by rw [BitVec.getLsbD_append]; rfl
  rw [decodeWrite_lutAddrWord, if_pos bit3, BitVec.extractLsb'_append_eq_right]

theorem decodeWrite_lutK8 (c : Sym) (d : Word) : decodeWrite (lutAddrWord c 8#4) d = .cfgWrLutK8 c d :=
  decodeWrite_lutAddrWord c 8#4 d

theorem decodeWrite_lutRsv (c : Sym) (k : BitVec 4) (d : Word) (h : 9 ≤ k.toNat) :
    decodeWrite (lutAddrWord c k) d = .cfgWrLutRsv c k d := by
  have reserved : ∀ k : BitVec 4, 9 ≤ k.toNat → ¬ k.getLsbD 3 = false ∧ k ≠ 8#4 := by decide
  obtain ⟨bit3, ne8⟩ := reserved k h
  rw [decodeWrite_lutAddrWord, if_neg bit3, if_neg ne8]

theorem decodeWrite_of_not_lut {a : Addr} (d : Word) (h : 4 ≤ a.toNat) (notLut : a.toNat < 0x1000 ∨ 0x2000 ≤ a.toNat) :
    decodeWrite a d =
      if a.extractLsb' 9 7 = 0b0010000#7 then .cfgWrNode (a.extractLsb' 0 9) d else .cfgWrUnmapped a d := by
  obtain ⟨h0, h1, h2, h3⟩ := not_register h
  have tag : a.extractLsb' 12 4 ≠ 0x1#4 := by
    have lt := a.isLt
    rw [Ne, BitVec.toNat_eq, toNat_field, BitVec.toNat_ofNat]
    omega
  rw [decodeWrite, if_neg h0, if_neg h1, if_neg h2, if_neg h3, if_neg tag]

theorem decodeWrite_nodeAddrWord (i : Idx) (d : Word) : decodeWrite (nodeAddrWord i) d = .cfgWrNode i d := by
  have key := toNat_nodeAddrWord i
  rw [nodeKey] at key
  have tag : (nodeAddrWord i).extractLsb' 9 7 = 0b0010000#7 := BitVec.extractLsb'_append_eq_left
  have index : (nodeAddrWord i).extractLsb' 0 9 = i := BitVec.extractLsb'_append_eq_right
  rw [decodeWrite_of_not_lut d (by omega) (by omega), if_pos tag, index]

theorem decodeWrite_unmapped {a : Addr} (d : Word) (h : 0x0004 ≤ a.toNat ∧ a.toNat ≤ 0x0FFF ∨ 0x2200 ≤ a.toNat) :
    decodeWrite a d = .cfgWrUnmapped a d := by
  have tag : a.extractLsb' 9 7 ≠ 0b0010000#7 := by
    have lt := a.isLt
    rw [Ne, BitVec.toNat_eq, toNat_field, BitVec.toNat_ofNat]
    omega
  rw [decodeWrite_of_not_lut d (by omega) (by omega), if_neg tag]

/-! ## The word a read returns, by address (R170) -/

section
variable (b : Block) {a : Addr}

theorem Block.cfgRead_ctrl (h : a.toNat = 0x0000) : b.cfgRead a = 0#32 := by
  obtain rfl : a = 0x0000#16 := BitVec.eq_of_toNat_eq h
  rfl

theorem Block.cfgRead_status_of_toNat (h : a.toNat = 0x0001) : b.cfgRead a = b.status := by
  obtain rfl : a = 0x0001#16 := BitVec.eq_of_toNat_eq h
  exact b.cfgRead_status

theorem Block.cfgRead_sent (h : a.toNat = 0x0002) : b.cfgRead a = b.sent.setWidth 32 := by
  obtain rfl : a = 0x0002#16 := BitVec.eq_of_toNat_eq h
  rfl

theorem Block.cfgRead_root (h : a.toNat = 0x0003) : b.cfgRead a = b.root.setWidth 32 := by
  obtain rfl : a = 0x0003#16 := BitVec.eq_of_toNat_eq h
  rfl

/-- Above the registers a read goes to the table whose address it is, or to no word. -/
theorem Block.cfgRead_of_four_le (h : 4 ≤ a.toNat) :
    b.cfgRead a =
      if isLutKey a.toNat then b.lutw.read a.toNat else if isNodeKey a.toNat then b.node.read a.toNat else 0#32 := by
  obtain ⟨h0, h1, h2, h3⟩ := not_register h
  rw [cfgRead, if_neg h0, if_neg h1, if_neg h2, if_neg h3]

theorem Block.cfgRead_lutKey {c : Sym} {k : Nat} (hk : k ≤ 8) (h : a.toNat = lutKey c k) : b.cfgRead a = b.lutWord c k := by
  rw [b.cfgRead_of_four_le (by rw [h, lutKey]; omega), h, if_pos (isLutKey_lutKey c hk), lutWord]

theorem Block.cfgRead_nodeKey {i : Idx} (h : a.toNat = nodeKey i) : b.cfgRead a = b.nodeWord i := by
  have notLut : ¬ isLutKey (nodeKey i) = true := by rw [isLutKey_iff, nodeKey]; omega
  rw [b.cfgRead_of_four_le (by rw [h, nodeKey]; omega), h, if_neg notLut, if_pos (isNodeKey_nodeKey i), nodeWord]

/-- A reserved LUT word and an unmapped address: no word stands there. -/
theorem Block.cfgRead_no_word (h : 4 ≤ a.toNat) (notNode : a.toNat < 0x2000 ∨ 0x2200 ≤ a.toNat)
    (notLut : a.toNat < 0x1000 ∨ 9 ≤ a.toNat % 16 ∨ 0x2000 ≤ a.toNat) : b.cfgRead a = 0#32 := by
  have lut : ¬ isLutKey a.toNat = true := by rw [isLutKey_iff]; omega
  have node : ¬ isNodeKey a.toNat = true := by rw [isNodeKey_iff]; omega
  rw [b.cfgRead_of_four_le h, if_neg lut, if_neg node]

end

end Sys2Proof.Machine
end

section
/-! PROOFS. The configuration operations (`41_config_ops.md` R161 to R170). -/

namespace Sys2Proof.Machine

/-! ## A word of a table after a write -/

section
variable {b : Block}

theorem Block.lutWord_setLutw_same (wf : TablesWf b) (c : Sym) (k : Nat) (d : Word) : (b.setLutw c k d).lutWord c k = d :=
  Table.read_write_same wf.lutw _ d

theorem Block.lutWord_setLutw_other (c : Sym) {k : Nat} (d : Word) {c' : Sym} {k' : Nat} (hk : k ≤ 8) (hk' : k' ≤ 8)
    (ne : ¬ (c' = c ∧ k' = k)) : (b.setLutw c k d).lutWord c' k' = b.lutWord c' k' :=
  Table.read_write_other _ d fun same => ne (lutKey_inj (by omega) (by omega) same)

theorem Block.nodeWord_setNode_same (wf : TablesWf b) (i : Idx) (d : Word) : (b.setNode i d).nodeWord i = d :=
  Table.read_write_same wf.node _ d

theorem Block.nodeWord_setNode_other {i j : Idx} (d : Word) (ne : j ≠ i) : (b.setNode i d).nodeWord j = b.nodeWord j :=
  Table.read_write_other _ d fun same => ne (nodeKey_inj same)

end

/-! ## Every write is one shared operation -/

section
variable (d : Word) (s : State)

theorem exec_cfgWrCtrl : exec (.cfgWrCtrl d) s = cfgWrite s fun b => if d.getLsbD 0 then b.setMode .run else b := rfl

theorem exec_cfgWrSent : exec (.cfgWrSent d) s = cfgWrite s fun b => b.setSent (d.extractLsb' 0 8) := rfl

theorem exec_cfgWrRoot : exec (.cfgWrRoot d) s = cfgWrite s fun b => b.setRoot (d.extractLsb' 0 9) := rfl

theorem exec_cfgWrLutK07 (c : Sym) (k : BitVec 3) :
    exec (.cfgWrLutK07 c k d) s = cfgWrite s fun b => b.setLutw c k.toNat d := rfl

theorem exec_cfgWrLutK8 (c : Sym) : exec (.cfgWrLutK8 c d) s = cfgWrite s fun b => b.setLutw c 8 d := rfl

theorem exec_cfgWrLutRsv (c : Sym) (k : BitVec 4) : exec (.cfgWrLutRsv c k d) s = cfgWrite s fun b => b.setCfgerr := rfl

theorem exec_cfgWrNode (i : Idx) : exec (.cfgWrNode i d) s = cfgWrite s fun b => b.setNode i d := rfl

theorem exec_cfgWrUnmapped (a : Addr) : exec (.cfgWrUnmapped a d) s = cfgWrite s fun b => b.setCfgerr := rfl

/-- Whatever the address, a write is the shared operation with some effect. -/
theorem exec_decodeWrite (a : Addr) : ∃ f, exec (decodeWrite a d) s = cfgWrite s f := by
  unfold decodeWrite
  split_ifs
  case pos => exact ⟨_, exec_cfgWrCtrl d s⟩
  case pos => exact ⟨_, (exec_cfgWrStatus d s).trans (cfgWrite_setCfgerr s).symm⟩
  case pos => exact ⟨_, exec_cfgWrSent d s⟩
  case pos => exact ⟨_, exec_cfgWrRoot d s⟩
  case pos => exact ⟨_, exec_cfgWrLutK07 d s _ _⟩
  case pos => exact ⟨_, exec_cfgWrLutK8 d s _⟩
  case neg => exact ⟨_, exec_cfgWrLutRsv d s _ _⟩
  case pos => exact ⟨_, exec_cfgWrNode d s _⟩
  case neg => exact ⟨_, exec_cfgWrUnmapped d s a⟩

end

/-- A LUT write in CONFIG, of a word k in 0..8 (R166). -/
theorem cfgWrite_setLutw {s : State} (config : s.blk.mode = .config) (wf : TablesWf s.blk) (c : Sym) {k : Nat} (hk : k ≤ 8)
    (d : Word) :
    ∃ t, cfgWrite s (fun b => b.setLutw c k d) = .next t ∧
      t = { s with cfgIn := s.cfgIn.tail, blk := { s.blk with lutw := t.blk.lutw } } ∧
      t.blk.lutWord c k = d ∧ (∀ a, a ≠ lutKey c k → t.blk.lutw.read a = s.blk.lutw.read a) ∧
      ∀ c' k', k' ≤ 8 → ¬ (c' = c ∧ k' = k) → t.blk.lutWord c' k' = s.blk.lutWord c' k' :=
  ⟨s.acceptCfg.setBlk (s.blk.setLutw c k d), cfgWrite_config config _, rfl, Block.lutWord_setLutw_same wf c k d,
    fun _ ne => Table.read_write_other _ d ne, fun _ _ hk' ne => Block.lutWord_setLutw_other c d hk hk' ne⟩

/-- Settles O25: both rows are the shared write with one effect on the LUT, at the word's own address. -/
theorem lutWriteStoresTheWord : Obligations.LutWriteStoresTheWord := by
  refine ⟨fun c d => ⟨fun k => ?decodeK07, ?decodeK8⟩, fun s c d config wf => ⟨fun k => ?storeK07, ?storeK8⟩⟩
  case decodeK07 =>
    have number : (0#1 ++ k).toNat = k.toNat := (toNat_append_eq_add 0#1 k).trans (Nat.zero_add _)
    rw [decode_cfgWord_write, ← number, ofNat_lutKey c (0#1 ++ k), decodeWrite_lutK07]
  case decodeK8 => exact (decode_cfgWord_write _ d).trans (ofNat_lutKey c 8#4 ▸ decodeWrite_lutK8 c d)
  case storeK07 => rw [exec_cfgWrLutK07]; exact cfgWrite_setLutw config wf c k.isLt.le d
  case storeK8 => rw [exec_cfgWrLutK8]; exact cfgWrite_setLutw config wf c le_rfl d

/-- Settles O26: the write is the shared one with an effect on one node, at its own address. -/
theorem nodeWriteStoresTheWord : Obligations.NodeWriteStoresTheWord := by
  refine ⟨fun i d => ?decode, fun s i d config wf => ?store⟩
  case decode => rw [decode_cfgWord_write, ofNat_nodeKey, decodeWrite_nodeAddrWord]
  case store =>
    rw [exec_cfgWrNode]
    exact ⟨s.acceptCfg.setBlk (s.blk.setNode i d), cfgWrite_config config _, rfl, Block.nodeWord_setNode_same wf i d,
      fun _ ne => Table.read_write_other _ d ne, fun _ ne => Block.nodeWord_setNode_other d ne⟩

/-- Settles O28: a read answers with the word at its address, which is found address range by address range. -/
theorem readRespondsByAddress : Obligations.ReadRespondsByAddress := by
  refine ⟨decode_cfgWord_read, fun s a => ⟨s.blk.cfgRead a, fun g => ⟨exec_cfgRd a g s, s.blk.cfgRead_ctrl,
    s.blk.cfgRead_status_of_toNat, s.blk.cfgRead_sent, s.blk.cfgRead_root, ?lut, ?reserved, ?node, ?unmapped⟩⟩⟩
  case lut => exact fun c k hk h => s.blk.cfgRead_lutKey hk h
  case reserved =>
    intro c k lo hi h
    have lt := c.isLt
    exact s.blk.cfgRead_no_word (by omega) (by omega) (by omega)
  case node => exact fun i h => s.blk.cfgRead_nodeKey h
  case unmapped => exact fun h => s.blk.cfgRead_no_word (by omega) (by omega) (by omega)

/-- Settles O20: a write is the shared operation, which in RUN drops its effect and sets CFGERR. -/
theorem writeInRunIsRefused : Obligations.WriteInRunIsRefused := by
  intro s a d run
  obtain ⟨f, write⟩ := exec_decodeWrite d s a
  rw [decode_cfgWord_write, write]
  exact cfgWrite_run run f

/-- Settles O21: with bit 0 set the write is the assignment to MODE; with bit 0 clear MODE keeps the value CONFIG it has. -/
theorem lockWriteEntersRun : Obligations.LockWriteEntersRun := by
  refine ⟨fun d => decode_cfgWord_write 0x0000#16 d, fun s d config => ?_⟩
  rw [exec_cfgWrCtrl, cfgWrite_config config]
  cases d.getLsbD 0 with
  | true => rfl
  | false => rw [if_neg Bool.false_ne_true, if_neg Bool.false_ne_true, ← config]; rfl

/-- Settles O22: the effect in CONFIG and the refusal in RUN are the same assignment. -/
theorem statusWriteIsRefused : Obligations.StatusWriteIsRefused :=
  ⟨fun d => decode_cfgWord_write 0x0001#16 d, fun s d => exec_cfgWrStatus d s⟩

/-- Settles O23: the field WDATA[7:0] is WDATA cut to eight bits. -/
theorem sentWriteStoresLowByte : Obligations.SentWriteStoresLowByte := by
  refine ⟨fun d => decode_cfgWord_write 0x0002#16 d, fun s d config => ?_⟩
  rw [exec_cfgWrSent, cfgWrite_config config, BitVec.setWidth_eq_extractLsb' (by decide)]
  rfl

/-- Settles O24: the field WDATA[8:0] is WDATA cut to nine bits. -/
theorem rootWriteStoresLowNineBits : Obligations.RootWriteStoresLowNineBits := by
  refine ⟨fun d => decode_cfgWord_write 0x0003#16 d, fun s d config => ?_⟩
  rw [exec_cfgWrRoot, cfgWrite_config config, BitVec.setWidth_eq_extractLsb' (by decide)]
  rfl

/-- Settles O27: both rows are the shared write with the effect CFGERR, which is what it does in RUN to any write; an address with
ADDR[15:12] = 1 is that of a LUT word, whose k is read off its last hexadecimal digit. -/
theorem reservedAndUnmappedWritesAreRefused : Obligations.ReservedAndUnmappedWritesAreRefused := by
  refine fun s d => ⟨fun c k _ => ?lutRsv, fun a _ => ?unmapped, fun run a => writeInRunIsRefused s a d run,
    fun a => ⟨?reserved, fun h => (decode_cfgWord_write a d).trans (decodeWrite_unmapped d h)⟩⟩
  case lutRsv => exact (exec_cfgWrLutRsv d s c k).trans (cfgWrite_setCfgerr s)
  case unmapped => exact (exec_cfgWrUnmapped d s a).trans (cfgWrite_setCfgerr s)
  case reserved =>
    rintro ⟨lo, hi, digit⟩
    obtain ⟨c, k, rfl⟩ := exists_eq_lutAddrWord lo hi
    have key := toNat_lutAddrWord c k
    have lt := k.isLt
    rw [lutKey] at key
    have reserved : 9 ≤ k.toNat := by omega
    exact ⟨c, k, reserved, key, (decode_cfgWord_write _ d).trans (decodeWrite_lutRsv c k d reserved)⟩

end Sys2Proof.Machine
end

section
/-! PROOFS. The bits produced (`10_state.md` R28, R30): what the packer's procedures append to them, and the flush as their `pack`
(`42_encoder_ops.md` R181, R182, R186; `30_encoding.md` R101). -/

namespace Sys2Proof.Machine

/-! ## The low bits of a register, the highest of them first -/

/-- Bits n-1 down to 0: the pending bits of ACC in the order they were pushed (R28), and for n = 8 a byte as it is walked. -/
def lowBits {w : Nat} (n : Nat) (x : BitVec w) : Bits := (List.range n).map fun i => x.getLsbD (n - 1 - i)

theorem Block.pendingBits_eq (k : Block) : k.pendingBits = unpack k.obuf ++ lowBits k.nb.toNat k.acc := rfl

theorem unpack_concat (ys : List Byte) (y : Byte) : unpack (ys ++ [y]) = unpack ys ++ byteBits y := by
  simp [unpack]

theorem byteBits_eq_lowBits (y : Byte) : byteBits y = lowBits 8 y := rfl

@[simp] theorem lowBits_zero {w : Nat} (x : BitVec w) : lowBits 0 x = [] := rfl

@[simp] theorem lowBits_length {w : Nat} (n : Nat) (x : BitVec w) : (lowBits n x).length = n := by simp [lowBits]

theorem lowBits_congr {w v : Nat} {n : Nat} {x : BitVec w} {y : BitVec v} (same : ∀ j < n, x.getLsbD j = y.getLsbD j) :
    lowBits n x = lowBits n y := by
  refine List.map_congr_left fun i hi => same _ ?_
  have lt := List.mem_range.mp hi
  omega

theorem lowBits_concat {w : Nat} (n : Nat) (x : BitVec w) (b : Bool) :
    lowBits (n + 1) (x ++ BitVec.ofBool b) = lowBits n x ++ [b] := by
  have older : ∀ i ∈ List.range n, (x ++ BitVec.ofBool b).getLsbD (n + 1 - 1 - i) = x.getLsbD (n - 1 - i) := by
    intro i hi
    have lt := List.mem_range.mp hi
    have up : n + 1 - 1 - i = n - 1 - i + 1 := by omega
    rw [up]; exact BitVec.getLsbD_concat_succ
  have newest : (x ++ BitVec.ofBool b).getLsbD (n + 1 - 1 - n) = b := by
    rw [Nat.add_sub_cancel, Nat.sub_self]; exact BitVec.getLsbD_concat_zero
  rw [lowBits, List.range_succ, List.map_append, List.map_congr_left older, List.map_singleton, newest, lowBits]

theorem lowBits_shiftLeft {w : Nat} (n m : Nat) (x : BitVec w) (fit : n + m ≤ w) :
    lowBits (n + m) (x <<< m) = lowBits n x ++ List.replicate m false := by
  refine List.ext_getElem (by simp) fun i hi _ => ?_
  have lt : i < n + m := by simpa using hi
  rcases Nat.lt_or_ge i n with inside | past
  · have down : n + m - 1 - i - m = n - 1 - i := by omega
    have bit : (x <<< m).getLsbD (n + m - 1 - i) = x.getLsbD (n - 1 - i) := by
      rw [BitVec.getLsbD_shiftLeft, decide_eq_true (by omega), decide_eq_false (by omega), down]; rfl
    simpa [lowBits, List.getElem_append, inside] using bit
  · have bit : (x <<< m).getLsbD (n + m - 1 - i) = false := by
      rw [BitVec.getLsbD_shiftLeft, decide_eq_true (p := n + m - 1 - i < m) (by omega)]; simp
    simpa [lowBits, List.getElem_append, Nat.not_lt.mpr past] using bit

/-! ## What is pushed is appended -/

/-- R181, whether the bit fills a byte or stays in ACC: the NB + 1 low bits of the shifted ACC are the pending ones and the new one. -/
theorem pushBit_pendingBits (k : Block) (b : Bool) : (k.pushBit b).pendingBits = k.pendingBits ++ [b] := by
  have small := k.nb.isLt
  have shifted : lowBits (k.nb.toNat + 1) (k.acc.extractLsb' 0 7 ++ BitVec.ofBool b) = lowBits k.nb.toNat k.acc ++ [b] := by
    rw [lowBits_concat]
    refine congrArg (· ++ [b]) (lowBits_congr fun j hj => ?_)
    rw [BitVec.getLsbD_extractLsb', decide_eq_true (by omega), Bool.true_and, Nat.zero_add]
  rw [k.pendingBits_eq, List.append_assoc, ← shifted, Block.pushBit]
  split
  case isTrue full => rw [full, ← byteBits_eq_lowBits, ← unpack_concat]; exact List.append_nil _
  case isFalse partly =>
    have count : (BitVec.ofNat 3 (k.nb.toNat + 1)).toNat = k.nb.toNat + 1 := by
      rw [BitVec.toNat_ofNat, Nat.mod_eq_of_lt (by omega)]
    rw [Block.pendingBits_eq, Block.setPacker_obuf, Block.setPacker_nb, Block.setPacker_acc, count]

theorem pushBits_pendingBits (k : Block) (c : Bits) : (k.pushBits c).pendingBits = k.pendingBits ++ c := by
  induction c generalizing k with
  | nil => rw [pushBits_nil, List.append_nil]
  | cons b c ih => rw [pushBits_cons, ih, pushBit_pendingBits, List.append_assoc, List.singleton_append]

theorem pushCode_pendingBits (k : Block) (c : Sym) : (k.pushCode c).pendingBits = k.pendingBits ++ k.code c :=
  pushBits_pendingBits k _

/-! ## The flush -/

theorem byteBits_injective : Function.Injective byteBits := by
  intro y z same
  refine BitVec.eq_of_getLsbD_eq fun i hi => ?_
  have bit := congrArg (·[7 - i]?) same
  have back : 7 - (7 - i) = i := by omega
  simpa [byteBits_getElem?, back] using bit

theorem unpack_injective : Function.Injective unpack := by
  intro ys zs same
  induction ys generalizing zs with
  | nil => cases zs with
    | nil => rfl
    | cons z zs => simp [byteBits] at same
  | cons y ys ih => cases zs with
    | nil => simp [byteBits] at same
    | cons z zs =>
      obtain ⟨head, tail⟩ := List.append_inj same rfl
      rw [byteBits_injective head, ih tail]

theorem pendingBits_length (k : Block) : k.pendingBits.length = 8 * k.obuf.length + k.nb.toNat := by
  rw [Block.pendingBits_eq, List.length_append, unpack_length, lowBits_length]

/-- The zeros with which the flush fills its last byte are those that `pack` adds up to the byte boundary. -/
theorem unpack_flushed (k : Block) :
    unpack k.flushed = k.pendingBits ++ List.replicate ((8 - k.pendingBits.length % 8) % 8) false := by
  have small := k.nb.isLt
  have length := pendingBits_length k
  rw [Block.flushed]
  split
  case isTrue pending =>
    have zeros : (8 - k.pendingBits.length % 8) % 8 = 8 - k.nb.toNat := by omega
    have last : byteBits (k.acc <<< (8 - k.nb.toNat)) =
        lowBits k.nb.toNat k.acc ++ List.replicate (8 - k.nb.toNat) false := by
      rw [← lowBits_shiftLeft _ _ _ (by omega), Nat.add_sub_of_le (by omega), byteBits_eq_lowBits]
    rw [zeros, unpack_concat, last, k.pendingBits_eq, List.append_assoc]
  case isFalse boundary =>
    have zeros : (8 - k.pendingBits.length % 8) % 8 = 0 := by omega
    have empty : k.nb.toNat = 0 := by omega
    rw [zeros, k.pendingBits_eq, empty, lowBits_zero, List.append_nil]
    exact (List.append_nil _).symm

theorem flushed_eq_pack (k : Block) : k.flushed = pack k.pendingBits :=
  unpack_injective ((unpack_flushed k).trans (unpack_pack _).symm)

end Sys2Proof.Machine
end

section
/-! PROOFS. The meanings of ENC.SYM and ENC.EOM, one equation per row of `42_encoder_ops.md` (R183 to R188). -/

namespace Sys2Proof.Machine

/-! ## The tokens (R91) -/

theorem decode_encIn_sym (c : Sym) : decode (.encIn (0#1 ++ c)) = .encSym c := by
  have eom : (0#1 ++ c).getLsbD 8 = false := by rw [BitVec.getLsbD_append]; rfl
  rw [decode, decodeEncIn, if_neg (ne_true_of_eq_false eom), BitVec.extractLsb'_append_eq_right]

theorem decode_encIn_eom (g : BitVec 8) : decode (.encIn (1#1 ++ g)) = .encEom g := by
  have eom : (1#1 ++ g).getLsbD 8 = true := by rw [BitVec.getLsbD_append]; rfl
  rw [decode, decodeEncIn, if_pos eom, BitVec.extractLsb'_append_eq_right]

/-! ## The next state, row by row -/

section
variable {s : State}

theorem exec_encSym_drain (run : s.blk.mode = .run) (drain : s.blk.emode = .drain) (c : Sym) :
    exec (.encSym c) s = .next s.acceptEnc := by
  rw [exec, execEncSym, encSymWith, whenRunning_run run, drain]

theorem exec_encSym_valid (run : s.blk.mode = .run) (normal : s.blk.emode = .normal) {c : Sym} (valid : s.blk.valid c = true) :
    exec (.encSym c) s = .next (s.acceptEnc.setBlk (s.blk.pushCode c)) := by
  rw [exec, execEncSym, encSymWith, whenRunning_run run, normal]
  simp [valid]

theorem exec_encSym_unknown (run : s.blk.mode = .run) (normal : s.blk.emode = .normal) {c : Sym}
    (unknown : s.blk.valid c = false) : exec (.encSym c) s = .next (s.acceptEnc.raiseUnknownSymbol c .drain) := by
  rw [exec, execEncSym, encSymWith, whenRunning_run run, normal]
  simp [unknown]

theorem exec_encEom_drain (run : s.blk.mode = .run) (drain : s.blk.emode = .drain) (g : BitVec 8) :
    exec (.encEom g) s = .next s.acceptEnc.leaveDrain := by
  rw [exec, execEncEom, encEomWith, whenRunning_run run, drain]

/-- The packer's part of the result (R186) is `pack` of the bits produced and the sentinel's code. -/
theorem exec_encEom_valid (run : s.blk.mode = .run) (normal : s.blk.emode = .normal) (valid : s.blk.valid s.blk.sent = true)
    (g : BitVec 8) :
    exec (.encEom g) s = .next ((s.acceptEnc.setBlk (s.blk.setPacker 0#8 0#3 [])).emitEnc
      (successResult (pack (s.blk.pendingBits ++ s.blk.code s.blk.sent)))) := by
  obtain ⟨acc, nb, obuf, frame⟩ := pushCode_frame s.blk s.blk.sent
  have cleared : (s.blk.pushCode s.blk.sent).setPacker 0#8 0#3 [] = s.blk.setPacker 0#8 0#3 [] := by
    rw [frame, setPacker_setPacker]
  rw [exec, execEncEom, encEomWith, whenRunning_run run, normal]
  simp [valid, cleared, flushed_eq_pack, pushCode_pendingBits]

theorem exec_encEom_unknown (run : s.blk.mode = .run) (normal : s.blk.emode = .normal)
    (unknown : s.blk.valid s.blk.sent = false) (g : BitVec 8) :
    exec (.encEom g) s = .next (s.acceptEnc.raiseUnknownSymbol s.blk.sent .normal) := by
  rw [exec, execEncEom, encEomWith, whenRunning_run run, normal]
  simp [unknown]

end

/-! ## The obligations -/

/-- Settles O36: the step is push_code on the block, which appends the code to the bits produced and writes the packer alone. -/
theorem symbolIsEncoded : Obligations.SymbolIsEncoded := by
  refine ⟨decode_encIn_sym, fun s c run normal valid => ?_⟩
  refine ⟨_, exec_encSym_valid run normal valid, ?frame, rfl, pushCode_pendingBits s.blk c⟩
  obtain ⟨acc, nb, obuf, frame⟩ := pushCode_frame s.blk c
  rw [frame]
  rfl

/-- Settles O39: what the flush makes of the packer is `pack` of the bits it stands for. -/
theorem eomCommitsThePackedMessage : Obligations.EomCommitsThePackedMessage :=
  ⟨decode_encIn_eom, fun _ g run normal valid => exec_encEom_valid run normal valid g⟩

/-- Settles O37: the failure procedure of R235, with DRAIN as the mode after it. -/
theorem unknownSymbolFailsTheMessage : Obligations.UnknownSymbolFailsTheMessage :=
  fun _ _ run normal unknown => exec_encSym_unknown run normal unknown

/-- Settles O38: neither token is looked up; the first leaves the block alone, the second assigns EMODE. -/
theorem drainIgnoresUntilEom : Obligations.DrainIgnoresUntilEom :=
  fun _ run drain => ⟨exec_encSym_drain run drain, exec_encEom_drain run drain⟩

/-- Settles O40: the failure procedure of R235, with NORMAL as the mode after it. -/
theorem eomWithoutSentinelEntryFails : Obligations.EomWithoutSentinelEntryFails :=
  fun _ g run normal unknown => exec_encEom_unknown run normal unknown g

end Sys2Proof.Machine
end

section
/-! PROOFS. The meanings of DEC.BYTE and DEC.END, one equation per row of `43_decoder_ops.md` (R203 to R210), and the premise WF_ROOT
under which they have one (R215). -/

namespace Sys2Proof.Machine

/-! ## The tokens (R92) -/

/-- Bit 8 of a stream token is the flag in front of its byte. -/
theorem getLsbD_flag (f : BitVec 1) (x : BitVec 8) : (f ++ x).getLsbD 8 = f.getLsbD 0 := BitVec.getLsbD_append

theorem decode_decIn_byte (b : Byte) : decode (.decIn (0#1 ++ b)) = .decByte b := by
  rw [decode, decodeDecIn, getLsbD_flag, BitVec.extractLsb'_append_eq_right]
  exact if_neg (by decide)

theorem decode_decIn_end (g : BitVec 8) : decode (.decIn (1#1 ++ g)) = .decEnd g := by
  rw [decode, decodeDecIn, getLsbD_flag, BitVec.extractLsb'_append_eq_right]
  exact if_pos (by decide)

/-- R201 walks the bits that `unpack` gives for the one byte. -/
theorem walkByte_eq (k : Block) (b : Byte) : k.walkByte b = k.walkBits (unpack [b]) := by
  rw [unpack_cons, unpack_nil, List.append_nil, Block.walkByte]

theorem Block.setDmode_of_eq {k : Block} {m : DMode} (h : k.dmode = m) : k.setDmode m = k := by
  rw [← h]; rfl

/-! ## The premise WF_ROOT -/

theorem Block.wfRoot_eq_true (k : Block) : k.wfRoot = true ↔ k.leaf k.root = false ∨ k.sym k.root = k.sent := by
  simp [Block.wfRoot]

theorem Block.wfRoot_of_internal {k : Block} (internal : k.leaf k.root = false) : k.wfRoot = true :=
  k.wfRoot_eq_true.mpr (.inl internal)

theorem Block.wfRoot_eq_false (k : Block) : k.wfRoot = false ↔ k.leaf k.root = true ∧ k.sym k.root ≠ k.sent := by
  simp [Block.wfRoot]

/-- A decoder token is taken in RUN under WF_ROOT. -/
theorem whenRunning_underWfRoot {s : State} (run : s.blk.mode = .run) (wf : s.blk.wfRoot = true) (go : Result) :
    whenRunning s (underWfRoot s go) = go := by
  rw [whenRunning_run run, underWfRoot_true wf]

theorem whenRunning_not_wfRoot {s : State} (run : s.blk.mode = .run) (bad : s.blk.wfRoot = false) (go : Result) :
    whenRunning s (underWfRoot s go) = .refused .rootNotWf := by
  rw [whenRunning_run run, underWfRoot_false bad]

/-! ## The next state, row by row -/

section
variable {s : State}

theorem exec_decByte_not_wfRoot (run : s.blk.mode = .run) (bad : s.blk.wfRoot = false) (b : Byte) :
    exec (.decByte b) s = .refused .rootNotWf := whenRunning_not_wfRoot run bad _

theorem exec_decByte_skip (run : s.blk.mode = .run) (wf : s.blk.wfRoot = true) (skip : s.blk.dmode = .skip) (b : Byte) :
    exec (.decByte b) s = .next s.acceptDec := by
  rw [exec, execDecByte, decByteWith, whenRunning_underWfRoot run wf, skip]

theorem exec_decByte_walk (run : s.blk.mode = .run) (wf : s.blk.wfRoot = true) (walk : s.blk.dmode = .walk) (b : Byte) :
    exec (.decByte b) s =
      .next ((s.acceptDec.setBlk (s.blk.walkBits (unpack [b])).1).emitDec (s.blk.walkBits (unpack [b])).2) := by
  rw [exec, execDecByte, decByteWith, whenRunning_underWfRoot run wf, walk, ← walkByte_eq]
  exact walkAndCommit_params b s.acceptDec

theorem exec_decByte_start (run : s.blk.mode = .run) (idle : s.blk.dmode = .idle) (internal : s.blk.leaf s.blk.root = false)
    (b : Byte) :
    exec (.decByte b) s = .next ((s.acceptDec.setBlk (s.blk.startFrame.walkBits (unpack [b])).1).emitDec
      (s.blk.startFrame.walkBits (unpack [b])).2) := by
  rw [exec, execDecByte, decByteWith, whenRunning_underWfRoot run (Block.wfRoot_of_internal internal), idle, ← walkByte_eq]
  exact (if_neg (ne_true_of_eq_false internal)).trans (walkAndCommit_params b (s.acceptDec.setBlk s.blk.startFrame))

theorem exec_decByte_leaf_root (run : s.blk.mode = .run) (wf : s.blk.wfRoot = true) (idle : s.blk.dmode = .idle)
    (leaf : s.blk.leaf s.blk.root = true) (b : Byte) : exec (.decByte b) s = .next (s.acceptDec.degenerateFrame .skip) := by
  rw [exec, execDecByte, decByteWith, whenRunning_underWfRoot run wf, idle]
  exact if_pos leaf

theorem exec_decEnd_not_wfRoot (run : s.blk.mode = .run) (bad : s.blk.wfRoot = false) (g : BitVec 8) :
    exec (.decEnd g) s = .refused .rootNotWf := whenRunning_not_wfRoot run bad _

theorem exec_decEnd_skip (run : s.blk.mode = .run) (wf : s.blk.wfRoot = true) (skip : s.blk.dmode = .skip) (g : BitVec 8) :
    exec (.decEnd g) s = .next (s.acceptDec.setBlk (s.blk.setDmode .idle)) := by
  rw [exec, execDecEnd, decEndWith, whenRunning_underWfRoot run wf, skip]

theorem exec_decEnd_walk (run : s.blk.mode = .run) (wf : s.blk.wfRoot = true) (walk : s.blk.dmode = .walk) (g : BitVec 8) :
    exec (.decEnd g) s = .next s.acceptDec.raiseTruncatedInput := by
  rw [exec, execDecEnd, decEndWith, whenRunning_underWfRoot run wf, walk]

/-- The empty byte sequence is an error where the switch EMPTY_IS_OK is off (R208). -/
theorem exec_decEnd_empty (run : s.blk.mode = .run) (idle : s.blk.dmode = .idle) (internal : s.blk.leaf s.blk.root = false)
    (g : BitVec 8) : exec (.decEnd g) s = .next s.acceptDec.raiseTruncatedInput := by
  rw [exec, execDecEnd, decEndWith, whenRunning_underWfRoot run (Block.wfRoot_of_internal internal), idle]
  exact if_neg (ne_true_of_eq_false internal)

theorem exec_decEnd_leaf_root (run : s.blk.mode = .run) (wf : s.blk.wfRoot = true) (idle : s.blk.dmode = .idle)
    (leaf : s.blk.leaf s.blk.root = true) (g : BitVec 8) : exec (.decEnd g) s = .next (s.acceptDec.degenerateFrame .idle) := by
  rw [exec, execDecEnd, decEndWith, whenRunning_underWfRoot run wf, idle]
  exact if_pos leaf

theorem exec_decByte_completes (run : s.blk.mode = .run) (wf : s.blk.wfRoot = true) (b : Byte) :
    ∃ t, exec (.decByte b) s = .next t := by
  cases mode : s.blk.dmode with
  | skip => exact ⟨_, exec_decByte_skip run wf mode b⟩
  | walk => exact ⟨_, exec_decByte_walk run wf mode b⟩
  | idle =>
    cases root : s.blk.leaf s.blk.root with
    | false => exact ⟨_, exec_decByte_start run mode root b⟩
    | true => exact ⟨_, exec_decByte_leaf_root run wf mode root b⟩

theorem exec_decEnd_completes (run : s.blk.mode = .run) (wf : s.blk.wfRoot = true) (g : BitVec 8) :
    ∃ t, exec (.decEnd g) s = .next t := by
  cases mode : s.blk.dmode with
  | skip => exact ⟨_, exec_decEnd_skip run wf mode g⟩
  | walk => exact ⟨_, exec_decEnd_walk run wf mode g⟩
  | idle =>
    cases root : s.blk.leaf s.blk.root with
    | false => exact ⟨_, exec_decEnd_empty run mode root g⟩
    | true => exact ⟨_, exec_decEnd_leaf_root run wf mode root g⟩

end

/-! ## The obligations -/

/-- Settles O45: the three assignments of R203 make the block that is walked. -/
theorem byteStartsAFrame : Obligations.ByteStartsAFrame :=
  ⟨decode_decIn_byte, fun _ b run idle internal => exec_decByte_start run idle internal b⟩

/-- Settles O47: the block is walked as it stands. -/
theorem byteContinuesTheFrame : Obligations.ByteContinuesTheFrame :=
  fun s b run walk wf => exec_decByte_walk run (s.blk.wfRoot_eq_true.mpr wf) walk b

/-- Settles O48: neither token is walked; the first leaves the block alone, the second assigns DMODE. -/
theorem afterTheSentinelTheFrameIsIgnored : Obligations.AfterTheSentinelTheFrameIsIgnored := by
  intro s run skip root
  have wf := s.blk.wfRoot_eq_true.mpr root
  exact ⟨exec_decByte_skip run wf skip, exec_decEnd_skip run wf skip⟩

/-- Settles O49: both tokens give the degenerate frame, with SKIP and IDLE as the mode after it; the second is the mode it began in. -/
theorem leafRootGivesTheEmptyMessage : Obligations.LeafRootGivesTheEmptyMessage := by
  intro s run idle leaf sentinel
  have wf := s.blk.wfRoot_eq_true.mpr (.inr sentinel)
  refine ⟨exec_decByte_leaf_root run wf idle leaf, fun g => ?_⟩
  rw [exec_decEnd_leaf_root run wf idle leaf, State.degenerateFrame, State.acceptDec_blk, Block.setDmode_of_eq idle]
  rfl

/-- Settles O50: the failure procedure of R236, at the start of a frame and inside one. -/
theorem endWithoutSentinelIsTruncatedInput : Obligations.EndWithoutSentinelIsTruncatedInput := by
  refine ⟨decode_decIn_end, fun s g run state => ?_⟩
  rcases state with ⟨idle, internal⟩ | ⟨walk, root⟩
  · exact exec_decEnd_empty run idle internal g
  · exact exec_decEnd_walk run (s.blk.wfRoot_eq_true.mpr root) walk g

/-- Settles O51: the refusal is the test of WF_ROOT before any row; under WF_ROOT every DMODE has a row that completes. -/
theorem leafRootWithoutSentinelIsRefused : Obligations.LeafRootWithoutSentinelIsRefused := by
  refine fun s b g run => ⟨fun leaf other => ?refused, fun root => ?completes⟩
  case refused =>
    have bad := s.blk.wfRoot_eq_false.mpr ⟨leaf, other⟩
    exact ⟨exec_decByte_not_wfRoot run bad b, exec_decEnd_not_wfRoot run bad g⟩
  case completes =>
    have wf := s.blk.wfRoot_eq_true.mpr root
    exact ⟨exec_decByte_completes run wf b, exec_decEnd_completes run wf g⟩

end Sys2Proof.Machine
end

section
/-! PROOFS. Tokens against operations: the decoder and the encoder undo each other, streams and CFG commands decode by value, and
the words of the output tokens (`30_encoding.md` sections 1, 5 and 6; `20_memory.md` section 1). -/

namespace Sys2Proof.Machine

/-! ## Stream tokens: a flag in front of a byte (R91, R92) -/

theorem eq_zero_append {w : BitVec 9} (h : w.toNat ≤ 0x0FF) : w = 0#1 ++ w.setWidth 8 := by
  refine BitVec.eq_of_toNat_eq ?_
  rw [toNat_append_eq_add, BitVec.toNat_setWidth, BitVec.toNat_ofNat]
  omega

theorem eq_one_append {w : BitVec 9} (h : 0x100 ≤ w.toNat) : w = 1#1 ++ w.setWidth 8 := by
  have lt := w.isLt
  refine BitVec.eq_of_toNat_eq ?_
  rw [toNat_append_eq_add, BitVec.toNat_setWidth, BitVec.toNat_ofNat]
  omega

theorem exists_eq_append (w : BitVec 9) : ∃ x : BitVec 8, w = 0#1 ++ x ∨ w = 1#1 ++ x := by
  rcases Nat.lt_or_ge w.toNat 0x100 with low | high
  · exact ⟨_, .inl (eq_zero_append (by omega))⟩
  · exact ⟨_, .inr (eq_one_append high)⟩

/-- Settles O5: below 0x100 the token is the flag 0 and its own low byte, from 0x100 on the flag 1 and its low byte. -/
theorem streamTokensDecodeByValue : Obligations.StreamTokensDecodeByValue := by
  refine fun w => ⟨fun low => ?symbol, fun high => ?ended⟩
  case symbol =>
    have eq := eq_zero_append low
    exact ⟨(congrArg (decode ∘ .encIn) eq).trans (decode_encIn_sym _),
      (congrArg (decode ∘ .decIn) eq).trans (decode_decIn_byte _)⟩
  case ended =>
    rw [eq_one_append high]
    exact ⟨⟨_, decode_encIn_eom _⟩, ⟨_, decode_decIn_end _⟩⟩

/-! ## CFG commands: the address map read in both directions (R61, R105) -/

theorem exists_eq_cfgWord (w : BitVec 49) : ∃ we a d, w = cfgWord we a d := by
  have lt := w.isLt
  have flag : (BitVec.ofBool (cfgWe w)).toNat = w.toNat / 2 ^ 48 := by
    rw [BitVec.toNat_ofBool, cfgWe, BitVec.getLsbD, Nat.toNat_testBit]
    omega
  refine ⟨cfgWe w, cfgAddr w, cfgData w, BitVec.eq_of_toNat_eq ?_⟩
  rw [cfgWord, toNat_append_eq_add, toNat_append_eq_add, flag, cfgAddr, cfgData, toNat_field, toNat_field]
  omega

/-- The low digit of a LUT address: a word k in 0..7, the word 8, or a reserved k (R61). -/
theorem lutDigit_cases (k : BitVec 4) : (∃ j : BitVec 3, k = 0#1 ++ j) ∨ k = 8#4 ∨ 9 ≤ k.toNat := by
  have lt := k.isLt
  rcases Nat.lt_trichotomy k.toNat 8 with below | eight | above
  · refine .inl ⟨k.setWidth 3, BitVec.eq_of_toNat_eq ?_⟩
    rw [toNat_append_eq_add, BitVec.toNat_setWidth, BitVec.toNat_ofNat]
    omega
  · exact .inr (.inl (BitVec.eq_of_toNat_eq eight))
  · exact .inr (.inr above)

theorem exists_eq_nodeAddrWord {a : Addr} (lo : 0x2000 ≤ a.toNat) (hi : a.toNat < 0x2200) : ∃ i, a = nodeAddrWord i := by
  refine ⟨a.extractLsb' 0 9, BitVec.eq_of_toNat_eq ?_⟩
  rw [toNat_nodeAddrWord, nodeKey, toNat_field]
  omega

/-- The rows of the address map, which are all addresses (R61). -/
theorem addr_cases (a : Addr) :
    (a = 0x0000#16 ∨ a = 0x0001#16 ∨ a = 0x0002#16 ∨ a = 0x0003#16) ∨
    (∃ c k, a = lutAddrWord c k) ∨
    (∃ i, a = nodeAddrWord i) ∨
    (0x0004 ≤ a.toNat ∧ a.toNat ≤ 0x0FFF ∨ 0x2200 ≤ a.toNat) := by
  have registers : a.toNat < 4 → a = 0x0000#16 ∨ a = 0x0001#16 ∨ a = 0x0002#16 ∨ a = 0x0003#16 := by
    simp only [BitVec.toNat_eq, BitVec.toNat_ofNat]
    omega
  by_cases register : a.toNat < 4
  · exact .inl (registers register)
  by_cases lut : 0x1000 ≤ a.toNat ∧ a.toNat ≤ 0x1FFF
  · exact .inr (.inl (exists_eq_lutAddrWord lut.1 lut.2))
  by_cases node : 0x2000 ≤ a.toNat ∧ a.toNat < 0x2200
  · exact .inr (.inr (.inl (exists_eq_nodeAddrWord node.1 node.2)))
  exact .inr (.inr (.inr (by omega)))

theorem unmappedAddr_iff (a : Addr) :
    unmappedAddr a = true ↔ 0x0004 ≤ a.toNat ∧ a.toNat ≤ 0x0FFF ∨ 0x2200 ≤ a.toNat := by
  simp [unmappedAddr]

/-- Settles O1: the token of each row carries the row's own fields, and the decoder finds the row from its flag or its address. -/
theorem decodeOfEncodeIsTheOperation : Obligations.DecodeOfEncodeIsTheOperation := by
  intro i wf
  cases i with
  | reset => rfl
  | encSym c => exact decode_encIn_sym c
  | encEom g => exact decode_encIn_eom g
  | decByte b => exact decode_decIn_byte b
  | decEnd g => exact decode_decIn_end g
  | cfgWrCtrl d => exact decode_cfgWord_write 0x0000#16 d
  | cfgWrStatus d => exact decode_cfgWord_write 0x0001#16 d
  | cfgWrSent d => exact decode_cfgWord_write 0x0002#16 d
  | cfgWrRoot d => exact decode_cfgWord_write 0x0003#16 d
  | cfgWrLutK07 c k d => exact (decode_cfgWord_write _ d).trans (decodeWrite_lutK07 c k d)
  | cfgWrLutK8 c d => exact (decode_cfgWord_write _ d).trans (decodeWrite_lutK8 c d)
  | cfgWrLutRsv c k d => exact (decode_cfgWord_write _ d).trans (decodeWrite_lutRsv c k d (of_decide_eq_true wf))
  | cfgWrNode n d => exact (decode_cfgWord_write _ d).trans (decodeWrite_nodeAddrWord n d)
  | cfgWrUnmapped a d => exact (decode_cfgWord_write a d).trans (decodeWrite_unmapped d ((unmappedAddr_iff a).mp wf))
  | cfgRd a g => exact decode_cfgWord_read a g

/-- A token that some well-formed operation has comes back from the decoder, by O1. -/
theorem encode_decode_of_eq_encode {t : Token} {i : Instr} (wf : WellFormed i = true) (eq : t = encode i) :
    encode (decode t) = t ∧ WellFormed (decode t) = true := by
  rw [eq, decodeOfEncodeIsTheOperation i wf]
  exact ⟨rfl, wf⟩

/-- A CFG write has the operation of its address's row. -/
theorem exists_encode_eq_write (a : Addr) (d : Word) : ∃ i, WellFormed i = true ∧ .cfg (cfgWord true a d) = encode i := by
  rcases addr_cases a with (rfl | rfl | rfl | rfl) | ⟨c, k, rfl⟩ | ⟨n, rfl⟩ | unmapped
  · exact ⟨.cfgWrCtrl d, rfl, rfl⟩
  · exact ⟨.cfgWrStatus d, rfl, rfl⟩
  · exact ⟨.cfgWrSent d, rfl, rfl⟩
  · exact ⟨.cfgWrRoot d, rfl, rfl⟩
  · rcases lutDigit_cases k with ⟨j, rfl⟩ | rfl | reserved
    · exact ⟨.cfgWrLutK07 c j d, rfl, rfl⟩
    · exact ⟨.cfgWrLutK8 c d, rfl, rfl⟩
    · exact ⟨.cfgWrLutRsv c k d, decide_eq_true reserved, rfl⟩
  · exact ⟨.cfgWrNode n d, rfl, rfl⟩
  · exact ⟨.cfgWrUnmapped a d, (unmappedAddr_iff a).mpr unmapped, rfl⟩

/-- Every token is that of a well-formed operation: no bit pattern is illegal (R104). -/
theorem exists_encode_eq (t : Token) : ∃ i, WellFormed i = true ∧ t = encode i := by
  cases t with
  | reset => exact ⟨.reset, rfl, rfl⟩
  | encIn w =>
    obtain ⟨x, rfl | rfl⟩ := exists_eq_append w
    · exact ⟨.encSym x, rfl, rfl⟩
    · exact ⟨.encEom x, rfl, rfl⟩
  | decIn w =>
    obtain ⟨x, rfl | rfl⟩ := exists_eq_append w
    · exact ⟨.decByte x, rfl, rfl⟩
    · exact ⟨.decEnd x, rfl, rfl⟩
  | cfg w =>
    obtain ⟨we, a, d, rfl⟩ := exists_eq_cfgWord w
    cases we with
    | false => exact ⟨.cfgRd a d, rfl, rfl⟩
    | true => exact exists_encode_eq_write a d

/-- Settles O2: the token has a well-formed operation, which the decoder gives back. -/
theorem encodeOfDecodeIsTheToken : Obligations.EncodeOfDecodeIsTheToken := by
  intro t
  obtain ⟨i, wf, eq⟩ := exists_encode_eq t
  exact encode_decode_of_eq_encode wf eq

/-- Settles O4: an address is the word of its row, and the decoder's answer at that word is known. -/
theorem writesDecodeByTheAddressMap : Obligations.WritesDecodeByTheAddressMap := by
  intro a d
  have write := decode_cfgWord_write a d
  have lut : ∀ c (k : BitVec 4), a.toNat = 0x1000 + 16 * c.toNat + k.toNat → a = lutAddrWord c k := fun c k h =>
    BitVec.eq_of_toNat_eq (h.trans (toNat_lutAddrWord c k).symm)
  refine ⟨fun h => ?ctrl, fun h => ?status, fun h => ?sent, fun h => ?root, fun c k h => ?lutK07, fun c h => ?lutK8,
    fun c k reserved h => ?lutRsv, fun i h => ?node, fun h => ?unmapped, decode_cfgWord_read a d⟩ <;> rw [write]
  case ctrl => obtain rfl : a = 0x0000#16 := BitVec.eq_of_toNat_eq h; rfl
  case status => obtain rfl : a = 0x0001#16 := BitVec.eq_of_toNat_eq h; rfl
  case sent => obtain rfl : a = 0x0002#16 := BitVec.eq_of_toNat_eq h; rfl
  case root => obtain rfl : a = 0x0003#16 := BitVec.eq_of_toNat_eq h; rfl
  case lutK07 =>
    have number : (0#1 ++ k).toNat = k.toNat := (toNat_append_eq_add 0#1 k).trans (Nat.zero_add _)
    rw [lut c (0#1 ++ k) (number ▸ h), decodeWrite_lutK07]
  case lutK8 => rw [lut c 8#4 h, decodeWrite_lutK8]
  case lutRsv => rw [lut c k h, decodeWrite_lutRsv c k d reserved]
  case node =>
    rw [show a = nodeAddrWord i from BitVec.eq_of_toNat_eq (h.trans (toNat_nodeAddrWord i).symm), decodeWrite_nodeAddrWord]
  case unmapped => exact decodeWrite_unmapped d h

/-- Settles O3: each word is a literal. -/
theorem workedWordsDecode : Obligations.WorkedWordsDecode := by
  unfold Obligations.WorkedWordsDecode
  decide

/-! ## Output tokens (R95) -/

theorem OutToken.word_toNat (t : OutToken) :
    t.word.toNat = 2 ^ 14 * t.kind.toNat + 2 ^ 8 * t.cause.toNat + t.payload.toNat := by
  rw [word, toNat_append_eq_add, toNat_append_eq_add, toNat_append_eq_add, BitVec.toNat_ofNat]
  omega

theorem OutToken.word_kind (t : OutToken) : t.word.extractLsb' 14 2 = t.kind :=
  (BitVec.extractLsb'_append_eq_of_le (by decide)).trans <|
    (BitVec.extractLsb'_append_eq_of_le (by decide)).trans BitVec.extractLsb'_append_eq_left

theorem OutToken.word_reserved (t : OutToken) : t.word.extractLsb' 12 2 = 0#2 :=
  (BitVec.extractLsb'_append_eq_of_le (by decide)).trans <|
    (BitVec.extractLsb'_append_eq_of_le (by decide)).trans BitVec.extractLsb'_append_eq_right

theorem OutToken.word_cause (t : OutToken) : t.word.extractLsb' 8 4 = t.cause :=
  (BitVec.extractLsb'_append_eq_of_le (by decide)).trans BitVec.extractLsb'_append_eq_right

theorem OutToken.word_payload (t : OutToken) : t.word.extractLsb' 0 8 = t.payload := BitVec.extractLsb'_append_eq_right

/-- KIND, CAUSE and PAYLOAD say which token it is. -/
theorem OutToken.ext_fields {t u : OutToken} (kind : t.kind = u.kind) (cause : t.cause = u.cause)
    (payload : t.payload = u.payload) : t = u :=
  match t, u with
  | .data _, .data _ => congrArg data payload
  | .endOk, .endOk => rfl
  | .endErr _ _, .endErr _ _ => congrArg₂ endErr cause payload
  | .data _, .endOk | .data _, .endErr _ _ | .endOk, .data _ | .endOk, .endErr _ _ | .endErr _ _, .data _ | .endErr _ _, .endOk =>
    absurd kind (by simp [OutToken.kind])

theorem OutToken.word_injective : Function.Injective OutToken.word := fun t u same =>
  ext_fields (t.word_kind ▸ u.word_kind ▸ congrArg _ same) (t.word_cause ▸ u.word_cause ▸ congrArg _ same)
    (t.word_payload ▸ u.word_payload ▸ congrArg _ same)

/-- Settles O6: the word is the sum of its fields, each field is read back from it, and the three fields determine the token. -/
theorem outputTokenWords : Obligations.OutputTokenWords := by
  refine ⟨fun x => ?data, rfl, fun c v => ?err, fun t => ⟨t.word_reserved, ?kind⟩,
    fun t u same => OutToken.word_injective same⟩
  case data => exact (OutToken.word_toNat _).trans (Nat.zero_add _)
  case err => exact OutToken.word_toNat _
  case kind => rw [t.word_kind]; cases t <;> simp [OutToken.kind]

end Sys2Proof.Machine
end

section
/-! PROOFS. What an operation can do, said once: for each port the next states that its rows allow, the fields they may write, and
the step as an operation or an agent's empty turn (`60_exceptions.md` R239; `20_memory.md` section 3). -/

namespace Sys2Proof.Machine

/-! ## The parts of the state that the two units own (`20_memory.md` section 3 (c)) -/

/-- What an encoder operation may write. -/
structure EncPart where
  encIn : List (BitVec 9)
  encOut : List OutToken
  acc : BitVec 8
  nb : BitVec 3
  obuf : List Byte
  emode : EMode
  unk : Bool

/-- What a decoder operation may write. -/
structure DecPart where
  decIn : List (BitVec 9)
  decOut : List OutToken
  cur : Idx
  dbuf : List Sym
  dmode : DMode
  trunc : Bool

def State.encPart (s : State) : EncPart where
  encIn := s.encIn
  encOut := s.encOut
  acc := s.blk.acc
  nb := s.blk.nb
  obuf := s.blk.obuf
  emode := s.blk.emode
  unk := s.blk.unk

def State.decPart (s : State) : DecPart where
  decIn := s.decIn
  decOut := s.decOut
  cur := s.blk.cur
  dbuf := s.blk.dbuf
  dmode := s.blk.dmode
  trunc := s.blk.trunc

def Block.withEnc (k : Block) (e : EncPart) : Block :=
  { k with acc := e.acc, nb := e.nb, obuf := e.obuf, emode := e.emode, unk := e.unk }

def Block.withDec (k : Block) (d : DecPart) : Block :=
  { k with cur := d.cur, dbuf := d.dbuf, dmode := d.dmode, trunc := d.trunc }

def State.withEnc (s : State) (e : EncPart) : State :=
  { s with encIn := e.encIn, encOut := e.encOut, blk := s.blk.withEnc e }

def State.withDec (s : State) (d : DecPart) : State :=
  { s with decIn := d.decIn, decOut := d.decOut, blk := s.blk.withDec d }

/-- The two units own nothing in common. -/
theorem State.withEnc_withDec (s : State) (e : EncPart) (d : DecPart) : (s.withEnc e).withDec d = (s.withDec d).withEnc e := rfl

/-! ## The next states, port by port -/

/-- What an encoder operation can do: the token is held or drained, ends DRAIN, is encoded, commits the message or fails it. -/
inductive EncEffect (s : State) : State → Prop
  | held (config : s.blk.mode = .config) : EncEffect s s
  | drained (run : s.blk.mode = .run) : EncEffect s s.acceptEnc
  | leftDrain (run : s.blk.mode = .run) : EncEffect s s.acceptEnc.leaveDrain
  | encoded (run : s.blk.mode = .run) (normal : s.blk.emode = .normal) (c : Sym) :
      EncEffect s (s.acceptEnc.setBlk (s.blk.pushCode c))
  | committed (run : s.blk.mode = .run) (normal : s.blk.emode = .normal) (bytes : List Byte) :
      EncEffect s ((s.acceptEnc.setBlk (s.blk.setPacker 0#8 0#3 [])).emitEnc (successResult bytes))
  | failed (run : s.blk.mode = .run) (v : Sym) (after : EMode) : EncEffect s (s.acceptEnc.raiseUnknownSymbol v after)

/-- What a decoder operation can do: the token is held or skipped, ends a skipped frame, makes a degenerate frame, starts or
continues a walk, or ends a frame too early. -/
inductive DecEffect (s : State) : State → Prop
  | held (config : s.blk.mode = .config) : DecEffect s s
  | skipped (run : s.blk.mode = .run) : DecEffect s s.acceptDec
  | ended (run : s.blk.mode = .run) (skip : s.blk.dmode = .skip) : DecEffect s (s.acceptDec.setBlk (s.blk.setDmode .idle))
  | degenerate (run : s.blk.mode = .run) (idle : s.blk.dmode = .idle) (after : DMode) (notWalk : after ≠ .walk) :
      DecEffect s (s.acceptDec.degenerateFrame after)
  | started (run : s.blk.mode = .run) (idle : s.blk.dmode = .idle) (internal : s.blk.leaf s.blk.root = false) (bs : Bits) :
      DecEffect s ((s.acceptDec.setBlk (s.blk.startFrame.walkBits bs).1).emitDec (s.blk.startFrame.walkBits bs).2)
  | continued (run : s.blk.mode = .run) (walk : s.blk.dmode = .walk) (bs : Bits) :
      DecEffect s ((s.acceptDec.setBlk (s.blk.walkBits bs).1).emitDec (s.blk.walkBits bs).2)
  | truncated (run : s.blk.mode = .run) : DecEffect s s.acceptDec.raiseTruncatedInput

/-- The writes that name no word that can be written (R163, R167, R169). -/
def NamesNoWord (i : Instr) : Prop :=
  (∃ d, i = .cfgWrStatus d) ∨ (∃ c k d, i = .cfgWrLutRsv c k d) ∨ ∃ a d, i = .cfgWrUnmapped a d

/-- What a CFG operation can do: a write is refused in RUN, names no word, or has its row's effect in CONFIG; a read answers. -/
inductive CfgEffect (s : State) : Instr → State → Prop
  | refused {i : Instr} (run : s.blk.mode = .run) (write : isCfgWrite i = true) :
      CfgEffect s i (s.acceptCfg.setBlk s.blk.setCfgerr)
  | noWord {i : Instr} (config : s.blk.mode = .config) (write : isCfgWrite i = true) (none : NamesNoWord i) :
      CfgEffect s i (s.acceptCfg.setBlk s.blk.setCfgerr)
  | locked {d : Word} (config : s.blk.mode = .config) (bit0 : d.getLsbD 0 = true) :
      CfgEffect s (.cfgWrCtrl d) (s.acceptCfg.setBlk (s.blk.setMode .run))
  | notLocked {d : Word} (config : s.blk.mode = .config) : CfgEffect s (.cfgWrCtrl d) s.acceptCfg
  | sent {d : Word} (config : s.blk.mode = .config) (v : Sym) :
      CfgEffect s (.cfgWrSent d) (s.acceptCfg.setBlk (s.blk.setSent v))
  | root {d : Word} (config : s.blk.mode = .config) (v : Idx) :
      CfgEffect s (.cfgWrRoot d) (s.acceptCfg.setBlk (s.blk.setRoot v))
  | lutK07 (config : s.blk.mode = .config) (c : Sym) (k : BitVec 3) (d : Word) :
      CfgEffect s (.cfgWrLutK07 c k d) (s.acceptCfg.setBlk (s.blk.setLutw c k.toNat d))
  | lutK8 (config : s.blk.mode = .config) (c : Sym) (d : Word) :
      CfgEffect s (.cfgWrLutK8 c d) (s.acceptCfg.setBlk (s.blk.setLutw c 8 d))
  | node (config : s.blk.mode = .config) (n : Idx) (d : Word) :
      CfgEffect s (.cfgWrNode n d) (s.acceptCfg.setBlk (s.blk.setNode n d))
  | read (a : Addr) (g : Word) : CfgEffect s (.cfgRd a g) (s.acceptCfg.respond (s.blk.cfgRead a))

/-- What an operation can do. -/
inductive Effect (s : State) : Instr → State → Prop
  | reset : Effect s .reset (s.setBlk Block.reset)
  | enc {i : Instr} {t : State} (port : tokenAgent (encode i) = .enc) (effect : EncEffect s t) : Effect s i t
  | dec {i : Instr} {t : State} (port : tokenAgent (encode i) = .dec) (effect : DecEffect s t) : Effect s i t
  | cfg {i : Instr} {t : State} (effect : CfgEffect s i t) : Effect s i t

section
variable {s t : State}

theorem exec_encSym_effect {c : Sym} (h : exec (.encSym c) s = .next t) : EncEffect s t := by
  obtain ⟨config, rfl⟩ | ⟨run, -, rfl⟩ | ⟨run, normal, -, rfl⟩ | ⟨run, -, -, rfl⟩ := execEncSym_next h
  · exact .held config
  · exact .drained run
  · exact .encoded run normal c
  · exact .failed run c .drain

theorem exec_encEom_effect {g : BitVec 8} (h : exec (.encEom g) s = .next t) : EncEffect s t := by
  obtain ⟨config, rfl⟩ | ⟨run, -, rfl⟩ | ⟨run, normal, -, rfl⟩ | ⟨run, -, -, rfl⟩ := execEncEom_next (g := g) h
  · exact .held config
  · exact .leftDrain run
  · obtain ⟨acc, nb, obuf, frame⟩ := pushCode_frame s.blk s.blk.sent
    have cleared : (s.blk.pushCode s.blk.sent).setPacker 0#8 0#3 [] = s.blk.setPacker 0#8 0#3 [] := by
      rw [frame, setPacker_setPacker]
    rw [cleared]
    exact .committed run normal _
  · exact .failed run _ .normal

theorem exec_decByte_effect {b : Byte} (h : exec (.decByte b) s = .next t) : DecEffect s t := by
  obtain ⟨config, rfl⟩ | ⟨run, -, ⟨-, rfl⟩ | ⟨idle, -, rfl⟩ | ⟨idle, internal, rfl⟩ | ⟨walk, rfl⟩⟩ := execDecByte_next h
  · exact .held config
  · exact .skipped run
  · exact .degenerate run idle .skip nofun
  · exact .started run idle internal (byteBits b)
  · exact .continued run walk (byteBits b)

theorem exec_decEnd_effect {g : BitVec 8} (h : exec (.decEnd g) s = .next t) : DecEffect s t := by
  obtain ⟨config, rfl⟩ | ⟨run, -, ⟨skip, rfl⟩ | ⟨idle, -, rfl⟩ | ⟨-, -, rfl⟩ | ⟨-, rfl⟩⟩ := execDecEnd_next (g := g) h
  · exact .held config
  · exact .ended run skip
  · exact .degenerate run idle .idle nofun
  · exact .truncated run
  · exact .truncated run

/-- The token of a write has WE = 1 (R93). -/
theorem isCfgWrite_of_encode {i : Instr} {a : Addr} {d : Word} (h : encode i = .cfg (cfgWord true a d)) :
    isCfgWrite i = true := by
  rw [isCfgWrite, h]
  exact cfgWe_cfgWord true a d

theorem isCfgWrite_cfgRd (a : Addr) (g : Word) : isCfgWrite (.cfgRd a g) = false := cfgWe_cfgWord false a g

/-- A write is refused, or has in CONFIG the effect `f` of its row. -/
theorem cfgWrite_effect {i : Instr} {f : Block → Block} (row : exec i s = cfgWrite s f) (write : isCfgWrite i = true)
    (effect : s.blk.mode = .config → CfgEffect s i (s.acceptCfg.setBlk (f s.blk))) (h : exec i s = .next t) :
    CfgEffect s i t := by
  rw [row] at h
  obtain ⟨run, eq⟩ | ⟨config, eq⟩ := cfgWrite_cases s f <;> rw [eq] at h <;> cases h
  · exact .refused run write
  · exact effect config

theorem exec_cfgWrCtrl_effect {d : Word} (h : exec (.cfgWrCtrl d) s = .next t) : CfgEffect s (.cfgWrCtrl d) t := by
  refine cfgWrite_effect (exec_cfgWrCtrl d s) (isCfgWrite_of_encode rfl) (fun config => ?_) h
  cases bit0 : d.getLsbD 0 with
  | false => exact .notLocked config
  | true => exact .locked config bit0

theorem noWord_effect {i : Instr} (row : exec i s = cfgWrite s fun b => b.setCfgerr) (write : isCfgWrite i = true)
    (none : NamesNoWord i) (h : exec i s = .next t) : CfgEffect s i t :=
  cfgWrite_effect row write (.noWord · write none) h

/-- Each operation that completes has one of the effects of its port. -/
theorem exec_effect {i : Instr} (h : exec i s = .next t) : Effect s i t := by
  have write {a d} : encode i = .cfg (cfgWord true a d) → isCfgWrite i = true := isCfgWrite_of_encode
  cases i with
  | reset => cases h; exact .reset
  | encSym c => exact .enc rfl (exec_encSym_effect h)
  | encEom g => exact .enc rfl (exec_encEom_effect h)
  | decByte b => exact .dec rfl (exec_decByte_effect h)
  | decEnd g => exact .dec rfl (exec_decEnd_effect h)
  | cfgWrCtrl d => exact .cfg (exec_cfgWrCtrl_effect h)
  | cfgWrStatus d =>
    have row := (exec_cfgWrStatus d s).trans (cfgWrite_setCfgerr s).symm
    exact .cfg (noWord_effect row (write rfl) (.inl ⟨d, rfl⟩) h)
  | cfgWrSent d => exact .cfg (cfgWrite_effect (exec_cfgWrSent d s) (write rfl) (.sent · _) h)
  | cfgWrRoot d => exact .cfg (cfgWrite_effect (exec_cfgWrRoot d s) (write rfl) (.root · _) h)
  | cfgWrLutK07 c k d => exact .cfg (cfgWrite_effect (exec_cfgWrLutK07 d s c k) (write rfl) (.lutK07 · c k d) h)
  | cfgWrLutK8 c d => exact .cfg (cfgWrite_effect (exec_cfgWrLutK8 d s c) (write rfl) (.lutK8 · c d) h)
  | cfgWrLutRsv c k d => exact .cfg (noWord_effect (exec_cfgWrLutRsv d s c k) (write rfl) (.inr (.inl ⟨c, k, d, rfl⟩)) h)
  | cfgWrNode n d => exact .cfg (cfgWrite_effect (exec_cfgWrNode d s n) (write rfl) (.node · n d) h)
  | cfgWrUnmapped a d => exact .cfg (noWord_effect (exec_cfgWrUnmapped d s a) (write rfl) (.inr (.inr ⟨a, d, rfl⟩)) h)
  | cfgRd a g => cases h; exact .cfg (.read a g)

/-! ## Frames -/

/-- The encoder writes its own part. -/
theorem EncEffect.frame (h : EncEffect s t) : t = s.withEnc t.encPart := by
  cases h with
  | encoded run normal c =>
    obtain ⟨acc, nb, obuf, frame⟩ := pushCode_frame s.blk c
    rw [frame]; rfl
  | _ => rfl

theorem EncEffect.encIn (h : EncEffect s t) : t.encIn = s.encIn ∨ t.encIn = s.encIn.tail := by
  cases h with
  | held config => exact .inl rfl
  | _ => exact .inr rfl

/-- What a walk leaves differs from what it began with in the decoder's part. -/
theorem walked_frame {k : Block} (walk : ∃ c d m, k = s.blk.setWalk c d m) (out : List OutToken) :
    (s.acceptDec.setBlk k).emitDec out = s.withDec ((s.acceptDec.setBlk k).emitDec out).decPart := by
  obtain ⟨c, d, m, rfl⟩ := walk
  rfl

/-- The decoder writes its own part. -/
theorem DecEffect.frame (h : DecEffect s t) : t = s.withDec t.decPart := by
  cases h with
  | started run idle internal bs => exact walked_frame (walkBits_frame s.blk.startFrame bs) _
  | continued run walk bs => exact walked_frame (walkBits_frame s.blk bs) _
  | _ => rfl

theorem DecEffect.decIn (h : DecEffect s t) : t.decIn = s.decIn ∨ t.decIn = s.decIn.tail := by
  cases h with
  | held config => exact .inl rfl
  | _ => exact .inr rfl

end

/-- Settles O42: the encoder writes its own part, which holds no word of a table. -/
theorem encoderFrame : Obligations.EncoderFrame := by
  intro s t i isEnc h
  have effect : EncEffect s t := by
    obtain ⟨c, rfl⟩ | ⟨g, rfl⟩ := isEnc
    · exact exec_encSym_effect h
    · exact exec_encEom_effect h
  have frame := effect.frame
  exact ⟨frame, effect.encIn, fun a => by rw [frame]; exact ⟨rfl, rfl⟩⟩

/-- Settles O52: the decoder writes its own part, which holds no word of a table. -/
theorem decoderFrame : Obligations.DecoderFrame := by
  intro s t i isDec h
  have effect : DecEffect s t := by
    obtain ⟨b, rfl⟩ | ⟨g, rfl⟩ := isDec
    · exact exec_decByte_effect h
    · exact exec_decEnd_effect h
  have frame := effect.frame
  exact ⟨frame, effect.decIn, fun a => by rw [frame]; exact ⟨rfl, rfl⟩⟩

/-- A CFG operation completes with an effect of the CFG port. -/
theorem exec_cfg_effect {s t : State} {i : Instr} (port : tokenAgent (encode i) = .cfg) (h : exec i s = .next t) :
    CfgEffect s i t := by
  cases exec_effect h with
  | reset => exact nomatch port
  | enc other => exact nomatch other.symm.trans port
  | dec other => exact nomatch other.symm.trans port
  | cfg effect => exact effect

/-- A LUT word is stored at its own address of the one table. -/
theorem Block.read_setLutw_other (k : Block) (c : Sym) (j : Nat) (d : Word) {a : Nat} (ne : some (lutKey c j) ≠ some a) :
    (k.setLutw c j d).lutw.read a = k.lutw.read a ∧ (k.setLutw c j d).node.read a = k.node.read a :=
  ⟨Table.read_write_other _ d fun same => ne (congrArg some same.symm), rfl⟩

/-- A node is stored at its own address of the one table. -/
theorem Block.read_setNode_other (k : Block) (n : Idx) (d : Word) {a : Nat} (ne : some (nodeKey n) ≠ some a) :
    (k.setNode n d).lutw.read a = k.lutw.read a ∧ (k.setNode n d).node.read a = k.node.read a :=
  ⟨rfl, Table.read_write_other _ d fun same => ne (congrArg some same.symm)⟩

/-- Settles O31: row by row; the row that stores a word leaves every other address of its table, and the other table, alone. -/
theorem cfgOperationsFrame : Obligations.CfgOperationsFrame := by
  intro s t i port h
  cases exec_cfg_effect port h with
  | refused | noWord | notLocked =>
    exact ⟨rfl, fun _ => rfl, fun _ => rfl, fun _ => rfl, fun _ => rfl, fun _ _ => ⟨rfl, rfl⟩⟩
  | locked => exact ⟨rfl, fun other => absurd rfl (other _), fun _ => rfl, fun _ => rfl, fun _ => rfl, fun _ _ => ⟨rfl, rfl⟩⟩
  | sent => exact ⟨rfl, fun _ => rfl, fun other => absurd rfl (other _), fun _ => rfl, fun _ => rfl, fun _ _ => ⟨rfl, rfl⟩⟩
  | root => exact ⟨rfl, fun _ => rfl, fun _ => rfl, fun other => absurd rfl (other _), fun _ => rfl, fun _ _ => ⟨rfl, rfl⟩⟩
  | read => exact ⟨rfl, fun _ => rfl, fun _ => rfl, fun _ => rfl, fun other => absurd rfl (other _ _), fun _ _ => ⟨rfl, rfl⟩⟩
  | lutK07 _ c _ d | lutK8 _ c d =>
    exact ⟨rfl, fun _ => rfl, fun _ => rfl, fun _ => rfl, fun _ => rfl, fun _ => s.blk.read_setLutw_other c _ d⟩
  | node _ n d => exact ⟨rfl, fun _ => rfl, fun _ => rfl, fun _ => rfl, fun _ => rfl, fun _ => s.blk.read_setNode_other n d⟩

/-! ## The step -/

theorem State.advance_eq {s : State} {a : Agent} {as : List Agent} (chosen : s.sched = a :: as) :
    s.advance = { s with sched := as } := by
  rw [advance, chosen, List.tail_cons]

theorem step_of_fetch {s : State} {i : Instr} (fetched : s.fetch = some i) : step s = exec i s.advance := by rw [step, fetched]

theorem step_of_no_fetch {s : State} (nothing : s.fetch = none) : step s = .next s.advance := by rw [step, nothing]

/-- Settles O7: the token fetched is the head of the chosen agent's port. -/
theorem stepRunsTheHeadToken : Obligations.StepRunsTheHeadToken := by
  refine fun s as => ⟨fun chosen => ?reset, fun w ws chosen port => ?enc, fun w ws chosen port => ?dec,
    fun w ws chosen port => ?cfg⟩ <;> rw [← State.advance_eq chosen]
  case reset => exact step_of_fetch (fetch_reset chosen)
  case enc => exact step_of_fetch (fetch_enc chosen port)
  case dec => exact step_of_fetch (fetch_dec chosen port)
  case cfg => exact step_of_fetch (fetch_cfg chosen port)

/-- Settles O8: with no agent chosen, or an empty port, nothing is fetched and only the order of steps advances. -/
theorem noTokenNoStep : Obligations.NoTokenNoStep := by
  refine fun s as => ⟨fun empty => ?nobody, fun chosen port => ?enc, fun chosen port => ?dec, fun chosen port => ?cfg⟩
  case nobody =>
    have same : s.advance = s := by rw [State.advance, empty, List.tail_nil, ← empty]
    rw [step_of_no_fetch (by rw [State.fetch, empty]), same]
  case enc => rw [← State.advance_eq chosen, step_of_no_fetch (by simp [State.fetch, chosen, port])]
  case dec => rw [← State.advance_eq chosen, step_of_no_fetch (by simp [State.fetch, chosen, port])]
  case cfg => rw [← State.advance_eq chosen, step_of_no_fetch (by simp [State.fetch, chosen, port])]

/-- A step that completes advances the order of steps and does at most one operation. -/
theorem step_cases {s t : State} (h : step s = .next t) : t = s.advance ∨ ∃ i, exec i s.advance = .next t := by
  cases fetched : s.fetch with
  | none => exact .inl (Host.Outcome.next.inj ((step_of_no_fetch fetched).symm.trans h)).symm
  | some i => exact .inr ⟨i, (step_of_fetch fetched).symm.trans h⟩

/-! ## RESET -/

/-- Settles O10: RESET leaves the block of the state after reset, and touches no sequence. -/
theorem powerOnIsAReset : Obligations.PowerOnIsAReset :=
  ⟨fun s => ⟨s.setBlk Block.reset, exec_reset s, rfl, rfl, rfl⟩, by decide, rfl, rfl, rfl, rfl, rfl, rfl, rfl⟩

end Sys2Proof.Machine
end

section
/-! PROOFS. The bit walk against the loop that the spec writes for `decompress` (`43_decoder_ops.md` R202, R206, R212). -/

namespace Sys2Proof.Machine

/-! ## The loop of `decompress` -/

/-- The loop reads the trie, ROOT and SENT alone. -/
theorem decodeBits_congr {k l : Block} (node : l.node = k.node) (root : l.root = k.root) (sent : l.sent = k.sent) (c : Idx)
    (d : List Sym) (bs : Bits) : l.decodeBits c d bs = k.decodeBits c d bs := by
  induction bs generalizing c d with
  | nil => rfl
  | cons b bs ih =>
    have word : ∀ i, l.nodeWord i = k.nodeWord i := fun i => by rw [Block.nodeWord, node, Block.nodeWord]
    have child : l.child c b = k.child c b := by simp only [Block.child, Block.child0, Block.child1, word]
    simp only [Block.decodeBits, child, Block.leaf, Block.sym, word, root, sent, ih]
    rfl

section
variable {k : Block} {c : Idx} {d : List Sym} {b : Bool} {bs : Bits}

theorem decodeBits_internal (internal : k.leaf (k.child c b) = false) :
    k.decodeBits c d (b :: bs) = k.decodeBits (k.child c b) d bs := by
  simp [Block.decodeBits, internal]

theorem decodeBits_symbol (leaf : k.leaf (k.child c b) = true) (other : k.sym (k.child c b) ≠ k.sent) :
    k.decodeBits c d (b :: bs) = k.decodeBits k.root (d ++ [k.sym (k.child c b)]) bs := by
  simp [Block.decodeBits, leaf, other]

theorem decodeBits_sentinel (leaf : k.leaf (k.child c b) = true) (sentinel : k.sym (k.child c b) = k.sent) :
    k.decodeBits c d (b :: bs) = some d := by
  simp [Block.decodeBits, leaf, sentinel]

/-- One bit in the loop: it ends at the sentinel, or goes on, and adds no sentinel to what is decoded. -/
theorem decodeBits_cons_cases (k : Block) (c : Idx) (d : List Sym) (b : Bool) :
    (∀ bs, k.decodeBits c d (b :: bs) = some d) ∨
    ∃ c' d', (∀ bs, k.decodeBits c d (b :: bs) = k.decodeBits c' d' bs) ∧ ((∀ x ∈ d, x ≠ k.sent) → ∀ x ∈ d', x ≠ k.sent) := by
  cases leaf : k.leaf (k.child c b) with
  | false => exact .inr ⟨_, _, fun bs => decodeBits_internal leaf, id⟩
  | true =>
    by_cases sentinel : k.sym (k.child c b) = k.sent
    · exact .inl fun bs => decodeBits_sentinel leaf sentinel
    · refine .inr ⟨_, _, fun bs => decodeBits_symbol leaf sentinel, fun free x mem => ?_⟩
      rcases List.mem_append.mp mem with old | new
      · exact free x old
      · exact List.mem_singleton.mp new ▸ sentinel

/-- After the sentinel further bits make no difference (R102: the padding is ignored). -/
theorem decodeBits_append_of_some {out : List Sym} (done : k.decodeBits c d bs = some out) (rest : Bits) :
    k.decodeBits c d (bs ++ rest) = some out := by
  induction bs generalizing c d with
  | nil => exact nomatch done
  | cons b bs ih =>
    rcases decodeBits_cons_cases k c d b with stop | ⟨c', d', go, -⟩
    · rw [← done, stop, List.cons_append, stop]
    · rw [go] at done
      rw [List.cons_append, go, ih done]

/-- What the loop returns holds no sentinel (R214). -/
theorem decodeBits_ne_sent {out : List Sym} (free : ∀ x ∈ d, x ≠ k.sent) (done : k.decodeBits c d bs = some out) :
    ∀ x ∈ out, x ≠ k.sent := by
  induction bs generalizing c d with
  | nil => exact nomatch done
  | cons b bs ih =>
    rcases decodeBits_cons_cases k c d b with stop | ⟨c', d', go, keeps⟩
    · rw [stop] at done
      exact Option.some.inj done ▸ free
    · rw [go] at done
      exact ih (keeps free) done

end

/-! ## The walk -/

/-- One bit walked: the sentinel commits what is decoded so far, where the loop returns it, or the walk goes on as the loop
does. -/
theorem walkBit_follows {k : Block} (walk : k.dmode = .walk) (b : Bool) :
    (∃ c, k.walkBit b = (k.setWalk c [] .skip, successResult k.dbuf) ∧ ∀ bs, k.decodeBits k.cur k.dbuf (b :: bs) = some k.dbuf) ∨
    ∃ c d, k.walkBit b = (k.setWalk c d .walk, []) ∧ ∀ bs, k.decodeBits k.cur k.dbuf (b :: bs) = k.decodeBits c d bs := by
  obtain ⟨idle, -⟩ | ⟨-, internal, eq⟩ | ⟨-, leaf, other, eq⟩ | ⟨-, leaf, sentinel, eq⟩ := walkBit_cases k b
  · exact absurd walk idle
  · exact .inr ⟨_, _, eq, fun _ => decodeBits_internal internal⟩
  · exact .inr ⟨_, _, eq, fun _ => decodeBits_symbol leaf other⟩
  · exact .inl ⟨_, eq, fun _ => decodeBits_sentinel leaf sentinel⟩

/-- Settles O46, by induction on the bits: each bit ends the loop and the walk together or leaves them at the same node with the
same symbols. -/
theorem walkFollowsTheDecompressLoop : Obligations.WalkFollowsTheDecompressLoop := by
  intro k bs walk
  induction bs generalizing k with
  | nil => exact .inr ⟨rfl, walk, fun _ => rfl⟩
  | cons b bs ih =>
    rcases walkBit_follows walk b with ⟨c, bit, stop⟩ | ⟨c, d, bit, go⟩
    · have skip : (k.setWalk c [] .skip).dmode ≠ .walk := nofun
      rw [walkBits_cons, bit, walkBits_not_walking skip, stop]
      exact .inl ⟨k.dbuf, rfl, List.append_nil _, rfl, rfl⟩
    · have loop := decodeBits_congr (k := k) (l := k.setWalk c d .walk) rfl rfl rfl
      rw [walkBits_cons, bit]
      simp only [List.cons_append, go, List.nil_append, ← loop]
      exact ih (k.setWalk c d .walk) rfl

/-- What a walk emits: nothing, or one success, of which no symbol is the sentinel if none was in DBUF. -/
theorem walkBits_out (k : Block) (bs : Bits) :
    (k.walkBits bs).2 = [] ∨
    ∃ out, (k.walkBits bs).2 = successResult out ∧ ((∀ x ∈ k.dbuf, x ≠ k.sent) → ∀ x ∈ out, x ≠ k.sent) := by
  by_cases walk : k.dmode = .walk
  · rcases walkFollowsTheDecompressLoop k bs walk with ⟨out, done, emitted, -⟩ | ⟨nothing, -⟩
    · exact .inr ⟨out, emitted, fun free => decodeBits_ne_sent free done⟩
    · exact .inl nothing
  · rw [walkBits_not_walking walk]
    exact .inl rfl

end Sys2Proof.Machine
end

section
/-! PROOFS. The invariants of the units and the canonical form of the tables, and what MODE freezes (`10_state.md` sections 2, 8
and 9; log entry 4). -/

namespace Sys2Proof.Machine

/-! ## R39, part by part: the packer (a, b), the walk (d, e, f), and CONFIG (c) -/

/-- R39 (a) and (b). -/
structure PackerInv (k : Block) : Prop where
  acc : k.acc.toNat < 2 ^ k.nb.toNat
  drain : k.emode = .drain → k.nb = 0#3 ∧ k.acc = 0#8 ∧ k.obuf = []

/-- R39 (d), (e) and (f). -/
structure WalkInv (k : Block) : Prop where
  dbuf : k.dmode ≠ .walk → k.dbuf = []
  walk : k.dmode = .walk → k.leaf k.root = false ∧ (∃ p, k.nodeAt p = some k.cur) ∧ k.leaf k.cur = false
  sentinel : ∀ c ∈ k.dbuf, c ≠ k.sent

/-- The conclusion of R39 (c): both units are idle. -/
def Block.Idle (k : Block) : Prop :=
  k.nb = 0#3 ∧ k.acc = 0#8 ∧ k.obuf = [] ∧ k.emode = .normal ∧ k.dmode = .idle ∧ k.dbuf = []

theorem unitInv_iff (k : Block) : UnitInv k ↔ PackerInv k ∧ WalkInv k ∧ (k.mode = .config → k.Idle) :=
  ⟨fun ⟨a, b, c, d, e, f⟩ => ⟨⟨a, b⟩, ⟨d, e, f⟩, c⟩, fun ⟨⟨a, b⟩, ⟨d, e, f⟩, c⟩ => ⟨a, b, c, d, e, f⟩⟩

theorem UnitInv.packer {k : Block} (inv : UnitInv k) : PackerInv k := ((unitInv_iff k).mp inv).1

theorem UnitInv.walkInv {k : Block} (inv : UnitInv k) : WalkInv k := ((unitInv_iff k).mp inv).2.1

/-- In RUN (c) says nothing. -/
theorem UnitInv.of_run {k : Block} (run : k.mode = .run) (packer : PackerInv k) (walk : WalkInv k) : UnitInv k :=
  (unitInv_iff k).mpr ⟨packer, walk, fun config => nomatch run.symm.trans config⟩

/-- Idle units meet R39 whatever the tables and registers hold. -/
theorem UnitInv.of_idle {k : Block} (idle : k.Idle) : UnitInv k := by
  have ⟨nb, acc, obuf, normal, notWalking, dbuf⟩ := idle
  refine (unitInv_iff k).mpr ⟨⟨?acc, fun _ => ⟨nb, acc, obuf⟩⟩, ⟨fun _ => dbuf, fun walk => ?walk, ?sentinel⟩, fun _ => idle⟩
  case acc => rw [acc, nb]; decide
  case walk => exact nomatch notWalking.symm.trans walk
  case sentinel => rw [dbuf]; exact nofun

/-! ### The packer -/

theorem PackerInv.of_empty {k : Block} (nb : k.nb = 0#3) (acc : k.acc = 0#8) (obuf : k.obuf = []) : PackerInv k :=
  ⟨by rw [acc, nb]; decide, fun _ => ⟨nb, acc, obuf⟩⟩

theorem pushBits_acc (k : Block) (c : Bits) (h : k.acc.toNat < 2 ^ k.nb.toNat) :
    (k.pushBits c).acc.toNat < 2 ^ (k.pushBits c).nb.toNat := by
  induction c generalizing k with
  | nil => exact h
  | cons b c ih => exact ih (k.pushBit b) (pushBit_acc k b h)

theorem PackerInv.pushCode {k : Block} (inv : PackerInv k) (normal : k.emode = .normal) (c : Sym) : PackerInv (k.pushCode c) := by
  refine ⟨pushBits_acc k _ inv.acc, fun drain => ?_⟩
  obtain ⟨acc, nb, obuf, frame⟩ := pushCode_frame k c
  rw [frame, Block.setPacker_emode, normal] at drain
  exact nomatch drain

/-! ### The walk -/

theorem nodeAt_congr {k l : Block} (node : l.node = k.node) (root : l.root = k.root) (p : Bits) : l.nodeAt p = k.nodeAt p := by
  rw [Block.nodeAt, descend_congr node, root, Block.nodeAt]

theorem WalkInv.congr {k l : Block} (inv : WalkInv k) (node : l.node = k.node) (root : l.root = k.root) (sent : l.sent = k.sent)
    (cur : l.cur = k.cur) (dbuf : l.dbuf = k.dbuf) (dmode : l.dmode = k.dmode) : WalkInv l := by
  have leaf : ∀ i, l.leaf i = k.leaf i := fun i => by rw [Block.leaf, Block.nodeWord, node, Block.leaf, Block.nodeWord]
  refine ⟨?_, ?_, ?_⟩
  · rw [dmode, dbuf]; exact inv.dbuf
  · simp only [dmode, leaf, nodeAt_congr node root, root, cur]; exact inv.walk
  · rw [dbuf, sent]; exact inv.sentinel

/-- Outside WALK with DBUF empty. -/
theorem WalkInv.of_not_walking {k : Block} (notWalk : k.dmode ≠ .walk) (dbuf : k.dbuf = []) : WalkInv k :=
  ⟨fun _ => dbuf, fun walk => absurd walk notWalk, by rw [dbuf]; exact nofun⟩

/-- In WALK, at an internal node of a trie with an internal root. -/
theorem WalkInv.of_walking (k : Block) {c : Idx} {d : List Sym} {p : Bits} (root : k.leaf k.root = false)
    (reached : k.nodeAt p = some c) (internal : k.leaf c = false) (free : ∀ x ∈ d, x ≠ k.sent) :
    WalkInv (k.setWalk c d .walk) := by
  have path : (k.setWalk c d .walk).nodeAt p = some c := (nodeAt_congr (k := k) (l := k.setWalk c d .walk) rfl rfl p).trans reached
  exact ⟨fun notWalk => absurd rfl notWalk, fun _ => ⟨root, ⟨p, path⟩, internal⟩, free⟩

theorem WalkInv.startFrame {k : Block} (root : k.leaf k.root = false) : WalkInv k.startFrame :=
  WalkInv.of_walking k (p := []) root rfl root nofun

/-- The path one bit longer leads to the child. -/
theorem descend_snoc {k : Block} {i j : Idx} {p : Bits} (reached : k.descend i p = some j) (internal : k.leaf j = false)
    (b : Bool) :
    k.descend i (p ++ [b]) = some (k.child j b) := by
  induction p generalizing i with
  | nil =>
    obtain rfl := Option.some.inj reached
    simp [Block.descend, internal]
  | cons x p ih =>
    cases leaf : k.leaf i with
    | true => simp [Block.descend, leaf] at reached
    | false =>
      simp only [Block.descend, leaf, List.cons_append] at reached ⊢
      exact ih reached

/-- Each bit leads down the trie to an internal node, or back to ROOT with a symbol that is not the sentinel, or out of WALK. -/
theorem WalkInv.walkBit {k : Block} (inv : WalkInv k) (b : Bool) : WalkInv (k.walkBit b).1 := by
  obtain ⟨-, eq⟩ | ⟨walk, internal, eq⟩ | ⟨walk, leaf, other, eq⟩ | ⟨-, -, -, eq⟩ := walkBit_cases k b <;> rw [eq]
  · exact inv
  · obtain ⟨root, ⟨p, reached⟩, inside⟩ := inv.walk walk
    exact .of_walking k root (descend_snoc reached inside b) internal inv.sentinel
  · obtain ⟨root, -, -⟩ := inv.walk walk
    refine .of_walking k (p := []) root rfl root fun x mem => ?_
    rcases List.mem_append.mp mem with old | new
    · exact inv.sentinel x old
    · exact List.mem_singleton.mp new ▸ other
  · exact .of_not_walking nofun rfl

theorem WalkInv.walkBits {k : Block} (inv : WalkInv k) (bs : Bits) : WalkInv (k.walkBits bs).1 := by
  induction bs generalizing k with
  | nil => exact inv
  | cons b bs ih => exact ih (inv.walkBit b)

/-! ### The units -/

section
variable {s t : State}

/-- The encoder has the packer's invariant to keep; the walk and its table are not its to write. -/
theorem EncEffect.unitInv (effect : EncEffect s t) (inv : UnitInv s.blk) : UnitInv t.blk := by
  have walk : WalkInv t.blk := by rw [effect.frame]; exact inv.walkInv.congr rfl rfl rfl rfl rfl rfl
  have mode : t.blk.mode = s.blk.mode := by rw [effect.frame]; rfl
  cases effect with
  | held config => exact inv
  | drained run => exact inv
  | leftDrain run => exact .of_run run ⟨inv.acc, nofun⟩ walk
  | encoded run normal c => exact .of_run (mode.trans run) (inv.packer.pushCode normal c) walk
  | committed run normal bytes => exact .of_run run (.of_empty rfl rfl rfl) walk
  | failed run v after => exact .of_run run (.of_empty rfl rfl rfl) walk

/-- The decoder has the walk's invariant to keep; the packer is not its to write. -/
theorem DecEffect.unitInv (effect : DecEffect s t) (inv : UnitInv s.blk) : UnitInv t.blk := by
  have packer : PackerInv t.blk := by rw [effect.frame]; exact ⟨inv.acc, inv.drain⟩
  have mode : t.blk.mode = s.blk.mode := by rw [effect.frame]; rfl
  cases effect with
  | held config => exact inv
  | skipped run => exact inv
  | ended run skip => exact .of_run run packer (.of_not_walking nofun (inv.dbuf (by rw [skip]; nofun)))
  | degenerate run idle after notWalk => exact .of_run run packer (.of_not_walking notWalk (inv.dbuf (by rw [idle]; nofun)))
  | started run idle internal bs => exact .of_run (mode.trans run) packer ((WalkInv.startFrame internal).walkBits bs)
  | continued run walk bs => exact .of_run (mode.trans run) packer (inv.walkInv.walkBits bs)
  | truncated run => exact .of_run run packer (.of_not_walking nofun rfl)

/-- A refused write keeps both invariants; in CONFIG the units are idle and no write touches them. -/
theorem CfgEffect.unitInv {i : Instr} (effect : CfgEffect s i t) (inv : UnitInv s.blk) : UnitInv t.blk := by
  cases effect with
  | refused run => exact .of_run run ⟨inv.acc, inv.drain⟩ (inv.walkInv.congr rfl rfl rfl rfl rfl rfl)
  | read => exact inv
  | noWord config | locked config | notLocked config | sent config | root config | lutK07 config | lutK8 config | node config =>
    exact .of_idle (inv.config config)

end

theorem reset_idle : Block.reset.Idle := ⟨rfl, rfl, rfl, rfl, rfl, rfl⟩

theorem exec_unitInv {i : Instr} {s t : State} (inv : UnitInv s.blk) (h : exec i s = .next t) : UnitInv t.blk := by
  cases exec_effect h with
  | reset => exact .of_idle reset_idle
  | enc port effect => exact effect.unitInv inv
  | dec port effect => exact effect.unitInv inv
  | cfg effect => exact effect.unitInv inv

/-- Settles O11: each unit keeps its own part of R39, and in CONFIG the units are idle, which no CFG operation changes. -/
theorem stepKeepsTheUnitInvariants : Obligations.StepKeepsTheUnitInvariants := by
  intro s t inv h
  rcases step_cases h with rfl | ⟨i, does⟩
  · exact inv
  · exact exec_unitInv (s := s.advance) inv does

/-! ## The tables -/

theorem TablesWf.setLutw {k : Block} (wf : TablesWf k) (c : Sym) {j : Nat} (hj : j ≤ 8) (d : Word) :
    TablesWf (k.setLutw c j d) where
  lutw := Table.write_wf wf.lutw _ d
  lutwKeys := Table.write_within wf.lutwKeys (isLutKey_lutKey c hj) d
  node := wf.node
  nodeKeys := wf.nodeKeys

theorem TablesWf.setNode {k : Block} (wf : TablesWf k) (n : Idx) (d : Word) : TablesWf (k.setNode n d) where
  lutw := wf.lutw
  lutwKeys := wf.lutwKeys
  node := Table.write_wf wf.node _ d
  nodeKeys := Table.write_within wf.nodeKeys (isNodeKey_nodeKey n) d

theorem TablesWf.congr {k l : Block} (wf : TablesWf k) (lutw : l.lutw = k.lutw) (node : l.node = k.node) : TablesWf l :=
  ⟨lutw ▸ wf.lutw, lutw ▸ wf.lutwKeys, node ▸ wf.node, node ▸ wf.nodeKeys⟩

theorem reset_tablesWf : TablesWf Block.reset := ⟨rfl, rfl, rfl, rfl⟩

theorem CfgEffect.tablesWf {i : Instr} {s t : State} (effect : CfgEffect s i t) (wf : TablesWf s.blk) : TablesWf t.blk := by
  cases effect with
  | lutK07 config c k d => exact wf.setLutw c k.isLt.le d
  | lutK8 config c d => exact wf.setLutw c le_rfl d
  | node config n d => exact wf.setNode n d
  | refused | noWord | locked | notLocked | sent | root | read => exact wf.congr rfl rfl

theorem exec_tablesWf {i : Instr} {s t : State} (wf : TablesWf s.blk) (h : exec i s = .next t) : TablesWf t.blk := by
  cases exec_effect h with
  | reset => exact reset_tablesWf
  | enc port effect => rw [effect.frame]; exact wf.congr rfl rfl
  | dec port effect => rw [effect.frame]; exact wf.congr rfl rfl
  | cfg effect => exact effect.tablesWf wf

/-- Settles O12: the only rows that write a table write a word of it at one of its addresses. -/
theorem stepKeepsTheTablesCanonical : Obligations.StepKeepsTheTablesCanonical := by
  intro s t wf h
  rcases step_cases h with rfl | ⟨i, does⟩
  · exact wf
  · exact exec_tablesWf (s := s.advance) wf does

/-- Settles O13: after reset the units are idle and the tables list nothing. -/
theorem resetMeetsTheInvariants : Obligations.ResetMeetsTheInvariants := ⟨.of_idle reset_idle, reset_tablesWf⟩

/-! ## MODE and what it freezes -/

/-- Settles O14: neither unit owns a table or a register of the configuration, and in RUN the only CFG effects are a refusal and a
response. -/
theorem tablesFrozenInRun : Obligations.TablesFrozenInRun := by
  intro s t i run notReset h
  cases exec_effect h with
  | reset => exact absurd rfl notReset
  | enc port effect => rw [effect.frame]; exact ⟨run, rfl, rfl, rfl, rfl⟩
  | dec port effect => rw [effect.frame]; exact ⟨run, rfl, rfl, rfl, rfl⟩
  | cfg effect =>
    cases effect with
    | refused | read => exact ⟨run, rfl, rfl, rfl, rfl⟩
    | noWord config | locked config | notLocked config | sent config | root config | lutK07 config | lutK8 config | node config =>
      exact nomatch run.symm.trans config

/-- Every operation but RESET and a LOCK write leaves MODE as it is. -/
theorem exec_mode {i : Instr} {s t : State} (h : exec i s = .next t) :
    i = .reset ∨ (t.blk.mode = .run ∧ ∃ d : Word, i = .cfgWrCtrl d ∧ d.getLsbD 0 = true) ∨ t.blk.mode = s.blk.mode := by
  cases exec_effect h with
  | reset => exact .inl rfl
  | enc port effect => rw [effect.frame]; exact .inr (.inr rfl)
  | dec port effect => rw [effect.frame]; exact .inr (.inr rfl)
  | cfg effect =>
    cases effect with
    | locked config bit0 => exact .inr (.inl ⟨rfl, _, rfl, bit0⟩)
    | refused | noWord | notLocked | sent | root | lutK07 | lutK8 | node | read => exact .inr (.inr rfl)

/-- Settles O15: RESET ends in CONFIG and a LOCK write in RUN, and nothing else changes MODE. -/
theorem modeChangesOnlyByLockAndReset : Obligations.ModeChangesOnlyByLockAndReset := by
  intro s t i h
  rcases exec_mode h with rfl | ⟨run, lock⟩ | same
  · cases h
    exact ⟨nofun, fun _ _ => rfl⟩
  · exact ⟨fun _ _ => lock, fun _ config => nomatch run.symm.trans config⟩
  · rw [same]
    exact ⟨fun config run => absurd (config.symm.trans run) nofun, fun run config => absurd (run.symm.trans config) nofun⟩

end Sys2Proof.Machine
end

section
/-! PROOFS. What a step appends to the output streams, and the sticky flags with which it does so (`10_state.md` sections 3 and 6;
`60_exceptions.md` sections 1 and 2; `43_decoder_ops.md` R214). -/

namespace Sys2Proof.Machine

/-! ## What an operation appends -/

/-- What operation `i` appends to ENC_OUT from `s` to `t`, with what becomes of UNK. -/
inductive EncReports (i : Instr) (s t : State) : List OutToken → Prop
  | nothing (unk : i ≠ .reset → t.blk.unk = s.blk.unk) : EncReports i s t []
  | success (bytes : List Byte) (unk : t.blk.unk = s.blk.unk) : EncReports i s t (successResult bytes)
  | unknown (v : Sym) (unk : t.blk.unk = true) : EncReports i s t [.endErr causeUnknownSymbol v]

/-- What operation `i` appends to DEC_OUT from `s` to `t`, with what becomes of TRUNC. -/
inductive DecReports (i : Instr) (s t : State) : List OutToken → Prop
  | nothing (trunc : i ≠ .reset → t.blk.trunc = s.blk.trunc) : DecReports i s t []
  | success (syms : List Sym) (trunc : t.blk.trunc = s.blk.trunc) (free : UnitInv s.blk → ∀ x ∈ syms, x ≠ s.blk.sent) :
      DecReports i s t (successResult syms)
  | truncated (trunc : t.blk.trunc = true) : DecReports i s t [.endErr causeTruncatedInput 0#8]

section
variable {i : Instr} {s t : State}

theorem EncEffect.reports (effect : EncEffect s t) : ∃ r, t.encOut = s.encOut ++ r ∧ EncReports i s t r := by
  have nothing (unk : t.blk.unk = s.blk.unk) (out : t.encOut = s.encOut) :
      ∃ r, t.encOut = s.encOut ++ r ∧ EncReports i s t r :=
    ⟨[], out.trans (List.append_nil _).symm, .nothing fun _ => unk⟩
  cases effect with
  | encoded run normal c =>
    obtain ⟨acc, nb, obuf, frame⟩ := pushCode_frame s.blk c
    exact nothing (show (s.blk.pushCode c).unk = s.blk.unk by rw [frame, Block.setPacker_unk]) rfl
  | committed run normal bytes => exact ⟨_, rfl, .success bytes rfl⟩
  | failed run v after => exact ⟨_, rfl, .unknown v rfl⟩
  | held | drained | leftDrain => exact nothing rfl rfl

/-- What a walk from a block whose DBUF holds no sentinel commits. -/
theorem walkBits_reports {k : Block} (trunc : k.trunc = s.blk.trunc) (sent : k.sent = s.blk.sent)
    (free : UnitInv s.blk → ∀ x ∈ k.dbuf, x ≠ k.sent) (bs : Bits) :
    DecReports i s ((s.acceptDec.setBlk (k.walkBits bs).1).emitDec (k.walkBits bs).2) (k.walkBits bs).2 := by
  obtain ⟨c, d, m, frame⟩ := walkBits_frame k bs
  have kept : (k.walkBits bs).1.trunc = s.blk.trunc := by rw [frame]; exact trunc
  rcases walkBits_out k bs with nothing | ⟨out, success, keeps⟩
  · rw [nothing]
    exact .nothing fun _ => kept
  · rw [success]
    exact .success out kept fun inv => sent ▸ keeps (free inv)

theorem DecEffect.reports (effect : DecEffect s t) : ∃ r, t.decOut = s.decOut ++ r ∧ DecReports i s t r := by
  have nothing (trunc : t.blk.trunc = s.blk.trunc) (out : t.decOut = s.decOut) :
      ∃ r, t.decOut = s.decOut ++ r ∧ DecReports i s t r :=
    ⟨[], out.trans (List.append_nil _).symm, .nothing fun _ => trunc⟩
  cases effect with
  | degenerate run idle after => exact ⟨successResult [], rfl, .success [] rfl nofun⟩
  | started run idle internal bs =>
    have free : UnitInv s.blk → ∀ x ∈ s.blk.startFrame.dbuf, x ≠ s.blk.sent := fun _ _ mem => absurd mem List.not_mem_nil
    exact ⟨_, rfl, walkBits_reports (k := s.blk.startFrame) rfl rfl free bs⟩
  | continued run walk bs => exact ⟨_, rfl, walkBits_reports rfl rfl (fun inv => inv.sentinel) bs⟩
  | truncated run => exact ⟨_, rfl, .truncated rfl⟩
  | held | skipped | ended => exact nothing rfl rfl

/-- Only the encoder appends to ENC_OUT. -/
theorem exec_encReports (h : exec i s = .next t) : ∃ r, t.encOut = s.encOut ++ r ∧ EncReports i s t r := by
  cases exec_effect h with
  | reset => exact ⟨[], (List.append_nil _).symm, .nothing fun other => absurd rfl other⟩
  | enc port effect => exact effect.reports
  | dec port effect => rw [effect.frame]; exact ⟨[], (List.append_nil _).symm, .nothing fun _ => rfl⟩
  | cfg effect => cases effect <;> exact ⟨[], (List.append_nil _).symm, .nothing fun _ => rfl⟩

/-- Only the decoder appends to DEC_OUT. -/
theorem exec_decReports (h : exec i s = .next t) : ∃ r, t.decOut = s.decOut ++ r ∧ DecReports i s t r := by
  cases exec_effect h with
  | reset => exact ⟨[], (List.append_nil _).symm, .nothing fun other => absurd rfl other⟩
  | enc port effect => rw [effect.frame]; exact ⟨[], (List.append_nil _).symm, .nothing fun _ => rfl⟩
  | dec port effect => exact effect.reports
  | cfg effect => cases effect <;> exact ⟨[], (List.append_nil _).symm, .nothing fun _ => rfl⟩

/-! ## Whole results, and the tokens in them -/

theorem endErr_notMem_successResult (c : BitVec 4) (v : BitVec 8) (xs : List Byte) : OutToken.endErr c v ∉ successResult xs := by
  simp [successResult]

theorem successResult_ne_endErr (xs : List Byte) (c : BitVec 4) (v : BitVec 8) : successResult xs ≠ [.endErr c v] := fun same =>
  endErr_notMem_successResult c v xs (same ▸ List.mem_singleton.mpr rfl)

theorem data_mem_successResult (x : Byte) (xs : List Byte) : OutToken.data x ∈ successResult xs ↔ x ∈ xs := by
  simp [successResult]

variable {r : List OutToken}

theorem EncReports.appendsOneResult (reports : EncReports i s t r) : AppendsOneResult r := by
  cases reports with
  | nothing => exact .inl rfl
  | success bytes => exact .inr (.inl ⟨bytes, rfl⟩)
  | unknown v => exact .inr (.inr ⟨_, v, rfl⟩)

theorem DecReports.appendsOneResult (reports : DecReports i s t r) : AppendsOneResult r := by
  cases reports with
  | nothing => exact .inl rfl
  | success syms => exact .inr (.inl ⟨syms, rfl⟩)
  | truncated => exact .inr (.inr ⟨_, _, rfl⟩)

theorem EncReports.endErr (reports : EncReports i s t r) {c : BitVec 4} {v : BitVec 8} (mem : .endErr c v ∈ r) :
    c = causeUnknownSymbol := by
  cases reports with
  | nothing => exact nomatch mem
  | success bytes => exact absurd mem (endErr_notMem_successResult c v bytes)
  | unknown w => exact (OutToken.endErr.inj (List.mem_singleton.mp mem)).1

theorem DecReports.endErr (reports : DecReports i s t r) {c : BitVec 4} {v : BitVec 8} (mem : .endErr c v ∈ r) :
    c = causeTruncatedInput ∧ v = 0#8 := by
  cases reports with
  | nothing => exact nomatch mem
  | success syms => exact absurd mem (endErr_notMem_successResult c v syms)
  | truncated => exact OutToken.endErr.inj (List.mem_singleton.mp mem)

theorem EncReports.unk_iff (reports : EncReports i s t r) (notReset : i ≠ .reset) :
    t.blk.unk = true ↔ s.blk.unk = true ∨ ∃ v, r = [.endErr causeUnknownSymbol v] := by
  cases reports with
  | nothing unk => simp [unk notReset]
  | success bytes unk => simp [unk, successResult_ne_endErr]
  | unknown v unk => simp [unk]

theorem DecReports.trunc_iff (reports : DecReports i s t r) (notReset : i ≠ .reset) :
    t.blk.trunc = true ↔ s.blk.trunc = true ∨ r = [.endErr causeTruncatedInput 0#8] := by
  cases reports with
  | nothing trunc => simp [trunc notReset]
  | success syms trunc => simp [trunc, successResult_ne_endErr]
  | truncated trunc => simp [trunc]

/-! ## CFGERR -/

theorem isCfgWrite_port (write : isCfgWrite i = true) : tokenAgent (encode i) = .cfg := by
  unfold isCfgWrite at write
  split at write
  · rename_i eq
    rw [eq, tokenAgent]
  all_goals exact nomatch write

theorem CfgEffect.cfgerr_iff (effect : CfgEffect s i t) :
    t.blk.cfgerr = true ↔ s.blk.cfgerr = true ∨ (isCfgWrite i = true ∧ (s.blk.mode = .run ∨ NamesNoWord i)) := by
  cases effect with
  | refused run write => simp [write, run]
  | noWord config write none => simp [write, none]
  | locked config | notLocked config | sent config | root config | lutK07 config | lutK8 config | node config =>
    simp [config, NamesNoWord]
  | read a g => simp [isCfgWrite_cfgRd]

theorem exec_cfgerr_iff (h : exec i s = .next t) (notReset : i ≠ .reset) :
    t.blk.cfgerr = true ↔ s.blk.cfgerr = true ∨ (isCfgWrite i = true ∧ (s.blk.mode = .run ∨ NamesNoWord i)) := by
  have notWrite (port : tokenAgent (encode i) ≠ .cfg) : ¬ isCfgWrite i = true := fun write => port (isCfgWrite_port write)
  cases exec_effect h with
  | reset => exact absurd rfl notReset
  | enc port effect => rw [effect.frame]; simp [notWrite (by simp [port]), State.withEnc, Block.withEnc]
  | dec port effect => rw [effect.frame]; simp [notWrite (by simp [port]), State.withDec, Block.withDec]
  | cfg effect => exact effect.cfgerr_iff

end

/-- Settles O16: RESET clears the block; every other operation sets a flag exactly with what it appends, and CFGERR exactly with a
write that is refused. -/
theorem flagsAreStickyAndSetByTheirEvents : Obligations.FlagsAreStickyAndSetByTheirEvents := by
  refine fun s t i h => ⟨fun reset => ?reset, fun notReset => ⟨?unk, ?trunc, exec_cfgerr_iff h notReset⟩⟩
  case reset =>
    subst reset
    cases h
    exact ⟨rfl, rfl, rfl⟩
  case unk =>
    obtain ⟨r, out, reports⟩ := exec_encReports h
    simp only [out, List.append_cancel_left_eq]
    exact reports.unk_iff notReset
  case trunc =>
    obtain ⟨r, out, reports⟩ := exec_decReports h
    simp only [out, List.append_cancel_left_eq]
    exact reports.trunc_iff notReset

/-- A step appends what its operation does, or nothing. -/
theorem step_reports {s t : State} (h : step s = .next t) :
    (∃ i r, t.encOut = s.encOut ++ r ∧ EncReports i s.advance t r) ∧
    ∃ i r, t.decOut = s.decOut ++ r ∧ DecReports i s.advance t r := by
  rcases step_cases h with rfl | ⟨i, does⟩
  · exact ⟨⟨.reset, [], (List.append_nil _).symm, .nothing fun _ => rfl⟩,
      ⟨.reset, [], (List.append_nil _).symm, .nothing fun _ => rfl⟩⟩
  · exact ⟨⟨i, exec_encReports does⟩, ⟨i, exec_decReports does⟩⟩

/-- Settles O17: each of the reports of an operation is nothing or one whole result. -/
theorem streamsGrowByWholeResults : Obligations.StreamsGrowByWholeResults := by
  intro s t h
  obtain ⟨⟨i, r, out, reports⟩, ⟨i', r', out', reports'⟩⟩ := step_reports h
  exact ⟨⟨r, out, reports.appendsOneResult⟩, ⟨r', out', reports'.appendsOneResult⟩⟩

/-- Settles O19: the encoder reports UnknownSymbol alone, the decoder TruncatedInput alone. -/
theorem onlyTwoCausesAreEverReported : Obligations.OnlyTwoCausesAreEverReported := by
  intro s t r c v h mem
  obtain ⟨⟨i, q, out, reports⟩, ⟨i', q', out', reports'⟩⟩ := step_reports h
  refine ⟨fun enc => ?enc, fun dec => ?dec⟩
  case enc =>
    obtain rfl := List.append_cancel_left (out.symm.trans enc)
    exact reports.endErr mem
  case dec =>
    obtain rfl := List.append_cancel_left (out'.symm.trans dec)
    exact reports'.endErr mem

/-- Settles O18: DATA tokens stand only in a committed DBUF, which holds no sentinel. -/
theorem decodedOutputNeverHoldsTheSentinel : Obligations.DecodedOutputNeverHoldsTheSentinel := by
  intro s t i r inv h out mem
  obtain ⟨q, out', reports⟩ := exec_decReports h
  obtain rfl := List.append_cancel_left (out.symm.trans out')
  cases reports with
  | nothing => exact nomatch mem
  | success syms trunc free => exact free inv _ ((data_mem_successResult _ _).mp mem) rfl
  | truncated => simp at mem

end Sys2Proof.Machine
end

section
/-! PROOFS. A table read after a write (`20_memory.md` section 3 (a)). -/

namespace Sys2Proof.Machine

/-! ## The rows at a table address -/

/-- A LUT address is that of one word k in 0..8 of one entry (R61). -/
theorem exists_lutKey {a : Addr} (h : isLutKey a.toNat = true) : ∃ c k, k ≤ 8 ∧ a.toNat = lutKey c k := by
  obtain ⟨lo, hi, digit⟩ := (isLutKey_iff _).mp h
  obtain ⟨c, k, rfl⟩ := exists_eq_lutAddrWord lo (by omega)
  have key := toNat_lutAddrWord c k
  rw [key, lutKey] at digit
  have lt := k.isLt
  exact ⟨c, k.toNat, by omega, key⟩

theorem exists_nodeKey {a : Addr} (h : isNodeKey a.toNat = true) : ∃ n, a.toNat = nodeKey n := by
  obtain ⟨lo, hi⟩ := (isNodeKey_iff _).mp h
  obtain ⟨n, rfl⟩ := exists_eq_nodeAddrWord lo hi
  exact ⟨n, toNat_nodeAddrWord n⟩

/-- A write at a LUT address stores the word there, whichever of its two rows it is (R166). -/
theorem exec_wr_lutKey {a : Addr} {c : Sym} {k : Nat} (hk : k ≤ 8) (key : a.toNat = lutKey c k) (d : Word) (s : State) :
    exec (wr a d) s = cfgWrite s fun b => b.setLutw c k d := by
  have digit : k < 2 ^ 4 := by omega
  have word : a = lutAddrWord c (BitVec.ofNat 4 k) :=
    BitVec.eq_of_toNat_eq (by rw [key, toNat_lutAddrWord, BitVec.toNat_ofNat, Nat.mod_eq_of_lt digit])
  have number : (BitVec.ofNat 4 k).toNat = k := by rw [BitVec.toNat_ofNat, Nat.mod_eq_of_lt digit]
  rw [wr, decode_cfgWord_write, word]
  rcases lutDigit_cases (BitVec.ofNat 4 k) with ⟨j, low⟩ | eight | reserved
  · have same : j.toNat = k := by rw [← number, low, toNat_append_eq_add, BitVec.toNat_ofNat]; omega
    rw [low, decodeWrite_lutK07, exec_cfgWrLutK07, same]
  · have same : 8 = k := by rw [← number, eight]; rfl
    rw [eight, decodeWrite_lutK8, exec_cfgWrLutK8, same]
  · omega

theorem exec_wr_nodeKey {a : Addr} {n : Idx} (key : a.toNat = nodeKey n) (d : Word) (s : State) :
    exec (wr a d) s = cfgWrite s fun b => b.setNode n d := by
  have word : a = nodeAddrWord n := BitVec.eq_of_toNat_eq (key.trans (toNat_nodeAddrWord n).symm)
  rw [wr, decode_cfgWord_write, word, decodeWrite_nodeAddrWord, exec_cfgWrNode]

theorem exec_rd (a : Addr) (s : State) : exec (rd a) s = .next (s.acceptCfg.respond (s.blk.cfgRead a)) := by
  rw [rd, decode_cfgWord_read, exec_cfgRd]

/-! ## Read after write -/

/-- A read of a table address reads its table. -/
theorem Block.cfgRead_setLutw {k : Block} (wf : TablesWf k) (c : Sym) {j : Nat} (hj : j ≤ 8) (d : Word) {b : Addr}
    (table : isLutKey b.toNat = true ∨ isNodeKey b.toNat = true) :
    (k.setLutw c j d).cfgRead b = if b.toNat = lutKey c j then d else k.cfgRead b := by
  rcases table with lut | node
  · obtain ⟨c', j', hj', key⟩ := exists_lutKey lut
    rw [cfgRead_lutKey _ hj' key, cfgRead_lutKey _ hj' key, key]
    split
    case isTrue same =>
      obtain ⟨rfl, rfl⟩ := lutKey_inj (by omega) (by omega) same
      exact lutWord_setLutw_same wf c' j' d
    case isFalse other => exact Table.read_write_other _ d other
  · obtain ⟨n, key⟩ := exists_nodeKey node
    have lt := c.isLt
    rw [cfgRead_nodeKey _ key, cfgRead_nodeKey _ key, if_neg (by rw [key, lutKey, nodeKey]; omega)]
    rfl

theorem Block.cfgRead_setNode {k : Block} (wf : TablesWf k) (n : Idx) (d : Word) {b : Addr}
    (table : isLutKey b.toNat = true ∨ isNodeKey b.toNat = true) :
    (k.setNode n d).cfgRead b = if b.toNat = nodeKey n then d else k.cfgRead b := by
  rcases table with lut | node
  · obtain ⟨c, j, hj, key⟩ := exists_lutKey lut
    have lt := c.isLt
    rw [cfgRead_lutKey _ hj key, cfgRead_lutKey _ hj key, if_neg (by rw [key, lutKey, nodeKey]; omega)]
    rfl
  · obtain ⟨m, key⟩ := exists_nodeKey node
    rw [cfgRead_nodeKey _ key, cfgRead_nodeKey _ key, key]
    split
    case isTrue same =>
      obtain rfl := nodeKey_inj same
      exact nodeWord_setNode_same wf m d
    case isFalse other => exact Table.read_write_other _ d other

/-- A write in CONFIG whose effect shows at its own address `a` alone, then a read. -/
theorem read_after_write {s : State} {a b : Addr} {d : Word} {f : Block → Block} (config : s.blk.mode = .config)
    (write : exec (wr a d) s = cfgWrite s f) (read : (f s.blk).cfgRead b = if b.toNat = a.toNat then d else s.blk.cfgRead b) :
    ∃ t, andThen (exec (wr a d) s) (exec (rd b)) = .next t ∧
      (b = a → t.cfgOut = s.cfgOut ++ [d]) ∧ (b ≠ a → t.cfgOut = s.cfgOut ++ [s.blk.cfgRead b]) := by
  rw [write, cfgWrite_config config, andThen_next, exec_rd]
  refine ⟨_, rfl, fun same => ?same, fun other => ?other⟩ <;> rw [State.respond_cfgOut, State.setBlk_blk, read]
  case same => rw [if_pos (congrArg BitVec.toNat same)]; rfl
  case other => rw [if_neg (mt BitVec.eq_of_toNat_eq other)]; rfl

/-- Settles O30: the write stores at its own address of its own table, and the read reads there. -/
theorem readReturnsTheLatestWrite : Obligations.ReadReturnsTheLatestWrite := by
  intro s a b d config wf written table
  rcases written with lut | node
  · obtain ⟨c, k, hk, key⟩ := exists_lutKey lut
    exact read_after_write config (exec_wr_lutKey hk key d s) (key ▸ Block.cfgRead_setLutw wf c hk d table)
  · obtain ⟨n, key⟩ := exists_nodeKey node
    exact read_after_write config (exec_wr_nodeKey key d s) (key ▸ Block.cfgRead_setNode wf n d table)

end Sys2Proof.Machine
end

section
/-! PROOFS. The packer's counts, acceptance of stream tokens, and the open parameters (`42_encoder_ops.md` sections 1, 2 and 5;
`20_memory.md` section 2). -/

namespace Sys2Proof.Machine

/-! ## The packer -/

/-- Settles O33: whether it fills a byte or stays in ACC, the bit comes last, and the packer is written alone. -/
theorem pushBitAppendsOneBit : Obligations.PushBitAppendsOneBit := by
  refine fun k b => ⟨pushBit_pendingBits k b, ?_⟩
  obtain ⟨acc, nb, obuf, frame⟩ := pushBit_frame k b
  rw [frame]
  rfl

/-- Settles O34: `unpack` of the flush is the bits produced and the zeros that `pack` adds, and `unpack` is injective. -/
theorem flushIsPackOfTheBitsProduced : Obligations.FlushIsPackOfTheBitsProduced := flushed_eq_pack

theorem pushBits_bitCount (k : Block) (c : Bits) : (k.pushBits c).bitCount = k.bitCount + c.length := by
  induction c generalizing k with
  | nil => rfl
  | cons b c ih => rw [pushBits_cons, ih, pushBit_bitCount, List.length_cons]; omega

/-- Settles O35: quotient and remainder by 8 of the number of bits produced, which grows by the code's length. -/
theorem pushCodeCounts : Obligations.PushCodeCounts := by
  intro k c
  have count : (k.pushCode c).bitCount = k.bitCount + (k.code c).length := pushBits_bitCount k _
  rw [code_length, Block.bitCount, Block.bitCount] at count
  have before := k.nb.isLt
  have after := (k.pushCode c).nb.isLt
  omega

/-! ## Acceptance, empty codes, capacities -/

/-- In RUN every encoder operation completes and consumes its token. -/
theorem exec_encSym_accepts {s : State} (run : s.blk.mode = .run) (c : Sym) :
    ∃ t, exec (.encSym c) s = .next t ∧ t.encIn = s.encIn.tail := by
  cases emode : s.blk.emode with
  | drain => exact ⟨_, exec_encSym_drain run emode c, rfl⟩
  | normal =>
    cases valid : s.blk.valid c with
    | false => exact ⟨_, exec_encSym_unknown run emode valid, rfl⟩
    | true => exact ⟨_, exec_encSym_valid run emode valid, rfl⟩

theorem exec_encEom_accepts {s : State} (run : s.blk.mode = .run) (g : BitVec 8) :
    ∃ t, exec (.encEom g) s = .next t ∧ t.encIn = s.encIn.tail := by
  cases emode : s.blk.emode with
  | drain => exact ⟨_, exec_encEom_drain run emode g, rfl⟩
  | normal =>
    cases valid : s.blk.valid s.blk.sent with
    | false => exact ⟨_, exec_encEom_unknown run emode valid g, rfl⟩
    | true => exact ⟨_, exec_encEom_valid run emode valid g, rfl⟩

/-- A decoder operation that completes in RUN consumes its token. -/
theorem DecEffect.decIn_of_run {s t : State} (effect : DecEffect s t) (run : s.blk.mode = .run) : t.decIn = s.decIn.tail := by
  cases effect with
  | held config => exact nomatch run.symm.trans config
  | skipped | ended | degenerate | started | continued | truncated => rfl

/-- Settles O32: in CONFIG the tokens are held; in RUN each row of either unit consumes its token, the decoder's under WF_ROOT. -/
theorem streamTokensHeldInConfigAcceptedInRun : Obligations.StreamTokensHeldInConfigAcceptedInRun := by
  refine fun s c b g => ⟨fun config => ?held, fun run =>
    ⟨exec_encSym_accepts run c, exec_encEom_accepts run g, fun root => ?decoder⟩⟩
  case held => exact ⟨exec_held rfl config, exec_held rfl config, exec_held rfl config, exec_held rfl config⟩
  case decoder =>
    have wf := s.blk.wfRoot_eq_true.mpr root
    obtain ⟨t, byte⟩ := exec_decByte_completes run wf b
    obtain ⟨u, ended⟩ := exec_decEnd_completes run wf g
    exact ⟨⟨t, byte, (exec_decByte_effect byte).decIn_of_run run⟩, ⟨u, ended, (exec_decEnd_effect ended).decIn_of_run run⟩⟩

theorem code_eq_nil {k : Block} {c : Sym} (empty : k.len c = 0) : k.code c = [] :=
  List.eq_nil_of_length_eq_zero ((code_length k c).trans empty)

/-- The bits produced by an idle packer. -/
theorem pendingBits_eq_nil {k : Block} (nb : k.nb = 0#3) (obuf : k.obuf = []) : k.pendingBits = [] :=
  List.eq_nil_of_length_eq_zero (by rw [pendingBits_length, obuf, nb]; rfl)

theorem setPacker_of_eq {k : Block} (acc : k.acc = 0#8) (nb : k.nb = 0#3) (obuf : k.obuf = []) : k.setPacker 0#8 0#3 [] = k := by
  rw [← acc, ← nb, ← obuf, setPacker_self]

theorem Block.setEmode_of_eq {k : Block} {m : EMode} (h : k.emode = m) : k.setEmode m = k := by
  rw [← h]; rfl

/-- Settles O41: nothing is pushed for an empty code, and `pack` of no bits is no byte. -/
theorem emptyCodePushesNothing : Obligations.EmptyCodePushesNothing := by
  refine fun s run normal => ⟨fun c valid empty => ?symbol, fun degen acc nb obuf g => ?eom⟩
  case symbol =>
    rw [exec_encSym_valid run normal valid, Block.pushCode, code_eq_nil empty, pushBits_nil]
    rfl
  case eom =>
    obtain ⟨valid, empty⟩ := s.blk.degenE_eq_true.mp degen
    rw [exec_encEom_valid run normal valid, pendingBits_eq_nil nb obuf, code_eq_nil empty, setPacker_of_eq acc nb obuf]
    rfl

/-- A walk of the given block under a finite DBUF_CAP. -/
theorem walkAndCommit_capped {p : Config.Params} {n : Nat} (cap : p.dbufCap = some n) (b : Byte) (s : State) :
    walkAndCommit p b s =
      if dbufPeak (s.blk.walkByte b).1 (s.blk.walkByte b).2 ≤ n then walkAndCommit Config.params b s
      else .refused .dbufOverCap := by
  rw [walkAndCommit_params, walkAndCommit, cap]
  simp

/-- Settles O56: a finite capacity adds one test before the step that the defaults take. -/
theorem finiteCapacitiesRefuse : Obligations.FiniteCapacitiesRefuse := by
  intro p s run
  refine ⟨fun c n normal valid cap => ?symbol, fun g n normal valid cap => ?eom, fun b n internal walk cap => ?byteInWalk,
    fun b n internal idle cap => ?byteInIdle, fun internal idle switch => ?empty⟩
  case symbol => simp [exec, execEncSym, encSymWith, whenRunning_run run, normal, valid, cap]
  case eom => simp [exec, execEncEom, encEomWith, whenRunning_run run, normal, valid, cap]
  case byteInWalk =>
    have wf := Block.wfRoot_of_internal internal
    simp only [exec, execDecByte, decByteWith, whenRunning_underWfRoot run wf, walk]
    exact walkAndCommit_capped cap b s.acceptDec
  case byteInIdle =>
    have wf := Block.wfRoot_of_internal internal
    simp only [exec, execDecByte, decByteWith, whenRunning_underWfRoot run wf, idle, internal]
    exact walkAndCommit_capped cap b (s.acceptDec.setBlk s.blk.startFrame)
  case empty =>
    have wf := Block.wfRoot_of_internal internal
    simp only [decEndWith, whenRunning_underWfRoot run wf, idle, internal, emptyFrame, switch]
    rfl

end Sys2Proof.Machine
end

section
/-! PROOFS. The encoder over a message (`42_encoder_ops.md` section 6, R191). -/

namespace Sys2Proof.Machine

/-! ## Lists of one operation and more -/

theorem execAll_cons (i : Instr) (is : List Instr) (s : State) : execAll (i :: is) s = andThen (exec i s) (execAll is) := rfl

theorem execAll_singleton (i : Instr) (s : State) : execAll [i] s = exec i s := by
  cases eq : exec i s with
  | next t => rw [execAll_cons, eq, andThen_next]; rfl
  | refused e => rw [execAll_cons, eq, andThen_refused]
  | fault e => exact nomatch e

/-! ## The result of a message -/

/-- The result of a message whose remaining symbols are `m` and for which the bits `q` are already produced (R191). -/
def Block.resultFrom (k : Block) (q : Bits) (m : List Sym) : List OutToken :=
  match m.find? fun c => !k.valid c with
  | some c => [.endErr causeUnknownSymbol c]
  | none => if k.valid k.sent then successResult (pack (q ++ k.messageBits m)) else [.endErr causeUnknownSymbol k.sent]

theorem Block.compress_eq_resultFrom (k : Block) (m : List Sym) : k.compress m = k.resultFrom [] m := rfl

theorem Block.resultFrom_nil_valid {k : Block} (valid : k.valid k.sent = true) (q : Bits) :
    k.resultFrom q [] = successResult (pack (q ++ k.code k.sent)) := by
  simp [resultFrom, messageBits, valid]

theorem Block.resultFrom_nil_unknown {k : Block} (unknown : k.valid k.sent = false) (q : Bits) :
    k.resultFrom q [] = [.endErr causeUnknownSymbol k.sent] := by
  simp [resultFrom, unknown]

theorem Block.resultFrom_cons_valid {k : Block} {c : Sym} (valid : k.valid c = true) (q : Bits) (m : List Sym) :
    k.resultFrom q (c :: m) = k.resultFrom (q ++ k.code c) m := by
  simp [resultFrom, messageBits, valid]

theorem Block.resultFrom_cons_unknown {k : Block} {c : Sym} (unknown : k.valid c = false) (q : Bits) (m : List Sym) :
    k.resultFrom q (c :: m) = [.endErr causeUnknownSymbol c] := by
  simp [resultFrom, unknown]

/-- Whether some symbol of a message, or the sentinel, has no entry. -/
def Block.misses (k : Block) (m : List Sym) : Bool := (m ++ [k.sent]).any fun c => !k.valid c

theorem Block.misses_nil (k : Block) : k.misses [] = !k.valid k.sent := by simp [misses]

theorem Block.misses_cons (k : Block) (c : Sym) (m : List Sym) : k.misses (c :: m) = (!k.valid c || k.misses m) := rfl

/-! ## A message, token by token -/

/-- The state after a message of `n` tokens: its result is appended and the encoder is idle. -/
def State.endMessage (s : State) (n : Nat) (result : List OutToken) (unk : Bool) : State :=
  { s with
    encIn := s.encIn.drop n
    encOut := s.encOut ++ result
    blk := { (s.blk.setPacker 0#8 0#3 []).setEmode .normal with unk := s.blk.unk || unk } }

theorem messageOps_nil (g : BitVec 8) : messageOps [] g = [.encEom g] := rfl
theorem messageOps_cons (c : Sym) (m : List Sym) (g : BitVec 8) : messageOps (c :: m) g = .encSym c :: messageOps m g := rfl

/-- In DRAIN the rest of the message is consumed and the encoder returns to NORMAL (R185, R188). -/
theorem execAll_messageOps_drain {s : State} (run : s.blk.mode = .run) (drain : s.blk.emode = .drain) (m : List Sym)
    (g : BitVec 8) :
    execAll (messageOps m g) s = .next { s with encIn := s.encIn.drop (m.length + 1), blk := s.blk.setEmode .normal } := by
  induction m generalizing s with
  | nil =>
    rw [messageOps_nil, execAll_singleton, exec_encEom_drain run drain, List.length_nil, Nat.zero_add, List.drop_one]
    rfl
  | cons c m ih =>
    rw [messageOps_cons, execAll_cons, exec_encSym_drain run drain, andThen_next, ih (s := s.acceptEnc) run drain,
      State.acceptEnc_encIn, List.drop_tail]
    rfl

/-- In NORMAL a message gives the result of the bits already produced and its own (R191). -/
theorem execAll_messageOps {s : State} (run : s.blk.mode = .run) (normal : s.blk.emode = .normal) (m : List Sym) (g : BitVec 8) :
    execAll (messageOps m g) s = .next (s.endMessage (m.length + 1) (s.blk.resultFrom s.blk.pendingBits m) (s.blk.misses m)) := by
  induction m generalizing s with
  | nil =>
    rw [messageOps_nil, execAll_singleton, State.endMessage, List.length_nil, Nat.zero_add, List.drop_one, Block.misses_nil]
    cases valid : s.blk.valid s.blk.sent with
    | true =>
      rw [exec_encEom_valid run normal valid, Block.resultFrom_nil_valid valid, Bool.not_true, Bool.or_false, ← normal]
      rfl
    | false =>
      rw [exec_encEom_unknown run normal valid, Block.resultFrom_nil_unknown valid, Bool.not_false, Bool.or_true]
      rfl
  | cons c m ih =>
    rw [messageOps_cons, execAll_cons, State.endMessage, List.length_cons, ← List.drop_tail, Block.misses_cons]
    cases valid : s.blk.valid c with
    | true =>
      obtain ⟨acc, nb, obuf, frame⟩ := pushCode_frame s.blk c
      have rest := ih (s := s.acceptEnc.setBlk (s.blk.pushCode c)) (frame ▸ run) (frame ▸ normal)
      rw [exec_encSym_valid run normal valid, andThen_next, rest, State.setBlk_blk, pushCode_pendingBits, frame,
        Block.resultFrom_cons_valid valid, Bool.not_true, Bool.false_or]
      rfl
    | false =>
      have rest := execAll_messageOps_drain (s := s.acceptEnc.raiseUnknownSymbol c .drain) run rfl m g
      rw [exec_encSym_unknown run normal valid, andThen_next, rest, Block.resultFrom_cons_unknown valid, Bool.not_false,
        Bool.true_or, Bool.or_true]
      rfl

/-- Settles O43: an idle encoder has produced no bits, and is idle again after the message. -/
theorem messageYieldsItsOneResult : Obligations.MessageYieldsItsOneResult := by
  intro s m g run normal nb acc obuf
  rw [execAll_messageOps run normal, pendingBits_eq_nil nb obuf, State.endMessage, setPacker_of_eq acc nb obuf,
    Block.setEmode_of_eq normal]
  rfl

end Sys2Proof.Machine
end

section
/-! PROOFS. The decoder over a frame, and the round trip (`43_decoder_ops.md` section 6, R212, R213). -/

namespace Sys2Proof.Machine

/-! ## A frame -/

/-- The result of a frame whose walk stands at node `c` with the symbols `d` decoded and whose remaining bits are `bs` (R212). -/
def Block.resultOfBits (k : Block) (c : Idx) (d : List Sym) (bs : Bits) : List OutToken :=
  match k.decodeBits c d bs with
  | some out => successResult out
  | none => [.endErr causeTruncatedInput 0#8]

theorem Block.decompress_leaf {k : Block} (leaf : k.leaf k.root = true) (ys : List Byte) : k.decompress ys = [.endOk] := by
  rw [decompress, if_pos leaf]

theorem Block.decompress_internal {k : Block} (internal : k.leaf k.root = false) (ys : List Byte) :
    k.decompress ys = k.resultOfBits k.root [] (unpack ys) := by
  rw [decompress, if_neg (ne_true_of_eq_false internal)]
  rfl

theorem Block.resultOfBits_some {k : Block} {c : Idx} {d out : List Sym} {bs : Bits} (done : k.decodeBits c d bs = some out) :
    k.resultOfBits c d bs = successResult out := by
  rw [resultOfBits, done]

theorem Block.resultOfBits_nil (k : Block) (c : Idx) (d : List Sym) :
    k.resultOfBits c d [] = [.endErr causeTruncatedInput 0#8] := rfl

theorem Block.resultOfBits_congr {k l : Block} {c c' : Idx} {d d' : List Sym} {bs bs' : Bits}
    (loop : l.decodeBits c d bs = k.decodeBits c' d' bs') : l.resultOfBits c d bs = k.resultOfBits c' d' bs' := by
  rw [resultOfBits, loop, resultOfBits]

/-- Whether a result reports TruncatedInput. -/
def isTruncated (result : List OutToken) : Bool := decide (result = [.endErr causeTruncatedInput 0#8])

theorem isTruncated_successResult (out : List Sym) : isTruncated (successResult out) = false :=
  decide_eq_false (successResult_ne_endErr out _ _)

/-- The state after a frame of `n` tokens: its result is appended and the decoder is idle. -/
def State.endFrame (s : State) (n : Nat) (result : List OutToken) (c : Idx) : State :=
  { s with
    decIn := s.decIn.drop n
    decOut := s.decOut ++ result
    blk := { s.blk.setWalk c [] .idle with trunc := s.blk.trunc || isTruncated result } }

theorem State.endFrame_acceptDec (s : State) (n : Nat) (result : List OutToken) (c : Idx) :
    s.acceptDec.endFrame n result c = s.endFrame (n + 1) result c := by
  rw [endFrame, endFrame, acceptDec_decIn, List.drop_tail]
  rfl

theorem frameOps_nil (g : BitVec 8) : frameOps [] g = [.decEnd g] := rfl
theorem frameOps_cons (y : Byte) (ys : List Byte) (g : BitVec 8) : frameOps (y :: ys) g = .decByte y :: frameOps ys g := rfl

section
variable {s : State}

/-- In SKIP the rest of the frame is consumed and the decoder returns to IDLE (R207, R210). -/
theorem execAll_frameOps_skip (run : s.blk.mode = .run) (wf : s.blk.wfRoot = true) (skip : s.blk.dmode = .skip) (ys : List Byte)
    (g : BitVec 8) :
    execAll (frameOps ys g) s = .next { s with decIn := s.decIn.drop (ys.length + 1), blk := s.blk.setDmode .idle } := by
  induction ys generalizing s with
  | nil =>
    rw [frameOps_nil, execAll_singleton, exec_decEnd_skip run wf skip, List.length_nil, Nat.zero_add, List.drop_one]
    rfl
  | cons y ys ih =>
    rw [frameOps_cons, execAll_cons, exec_decByte_skip run wf skip, andThen_next, ih (s := s.acceptDec) run wf skip,
      State.acceptDec_decIn, List.drop_tail]
    rfl

/-- In WALK a frame gives the result of the loop from where the walk stands (R212). -/
theorem execAll_frameOps_walk (run : s.blk.mode = .run) (wf : s.blk.wfRoot = true) (walk : s.blk.dmode = .walk) (ys : List Byte)
    (g : BitVec 8) :
    ∃ c, execAll (frameOps ys g) s =
      .next (s.endFrame (ys.length + 1) (s.blk.resultOfBits s.blk.cur s.blk.dbuf (unpack ys)) c) := by
  induction ys generalizing s with
  | nil =>
    refine ⟨s.blk.cur, ?_⟩
    rw [frameOps_nil, execAll_singleton, exec_decEnd_walk run wf walk, unpack_nil, Block.resultOfBits_nil, State.endFrame,
      List.length_nil, Nat.zero_add, List.drop_one, isTruncated, decide_eq_true rfl, Bool.or_true]
    rfl
  | cons y ys ih =>
    obtain ⟨c, d, m, frame⟩ := walkBits_frame s.blk (unpack [y])
    have bits : unpack (y :: ys) = unpack [y] ++ unpack ys := by simp
    rw [frameOps_cons, execAll_cons, exec_decByte_walk run wf walk, andThen_next, bits, List.length_cons]
    rcases walkFollowsTheDecompressLoop s.blk (unpack [y]) walk with ⟨out, done, emitted, skip, empty⟩ | ⟨nothing, still, go⟩
    · have result := Block.resultOfBits_some (decodeBits_append_of_some done (unpack ys))
      have committed : (s.blk.walkBits (unpack [y])).2 = successResult out := emitted
      rw [frame] at skip empty
      obtain rfl : m = .skip := skip
      obtain rfl : d = [] := empty
      have rest := execAll_frameOps_skip
        (s := (s.acceptDec.setBlk (s.blk.setWalk c [] .skip)).emitDec (successResult out)) run wf rfl ys g
      rw [frame, committed, rest, result]
      refine ⟨c, ?_⟩
      rw [← State.endFrame_acceptDec, State.endFrame, isTruncated_successResult, Bool.or_false]
      rfl
    · rw [frame] at still go
      obtain rfl : m = .walk := still
      have loop := (decodeBits_congr (k := s.blk) (l := s.blk.setWalk c d .walk) rfl rfl rfl c d (unpack ys)).trans (go _).symm
      obtain ⟨c', rest⟩ := ih (s := (s.acceptDec.setBlk (s.blk.setWalk c d .walk)).emitDec []) run wf rfl
      rw [frame, nothing, rest, ← Block.resultOfBits_congr loop]
      refine ⟨c', ?_⟩
      rw [← s.endFrame_acceptDec (ys.length + 1), State.endFrame, State.emitDec_decOut, List.append_nil]
      rfl

theorem setWalk_of_idle {k : Block} (idle : k.dmode = .idle) (empty : k.dbuf = []) (c : Idx) :
    k.setWalk c [] .idle = k.setCur c := by
  rw [← idle, ← empty]
  rfl

/-- A first byte with an internal root is walked like a byte of the frame that it starts (R203, R205). -/
theorem exec_decByte_startFrame (run : s.blk.mode = .run) (idle : s.blk.dmode = .idle) (internal : s.blk.leaf s.blk.root = false)
    (y : Byte) : exec (.decByte y) s = exec (.decByte y) (s.setBlk s.blk.startFrame) := by
  have wf := Block.wfRoot_of_internal internal
  rw [exec_decByte_start run idle internal, exec_decByte_walk (s := s.setBlk s.blk.startFrame) run wf rfl]
  rfl

/-- A frame presented to an idle decoder (R212): empty or not, with a leaf root or an internal one. -/
theorem execAll_frameOps_idle (run : s.blk.mode = .run) (wf : s.blk.wfRoot = true) (idle : s.blk.dmode = .idle)
    (empty : s.blk.dbuf = []) (ys : List Byte) (g : BitVec 8) :
    ∃ c, execAll (frameOps ys g) s = .next (s.endFrame (ys.length + 1) (s.blk.decompress ys) c) := by
  cases root : s.blk.leaf s.blk.root with
  | true =>
    have kept : s.blk.setWalk s.blk.cur [] .idle = s.blk := setWalk_of_idle idle empty s.blk.cur
    have whole : isTruncated [.endOk] = false := isTruncated_successResult []
    refine ⟨s.blk.cur, ?_⟩
    rw [Block.decompress_leaf root, ← State.endFrame_acceptDec, State.endFrame, whole, Bool.or_false, State.acceptDec_blk, kept]
    cases ys with
    | nil =>
      rw [frameOps_nil, execAll_singleton, exec_decEnd_leaf_root run wf idle root, State.degenerateFrame, State.acceptDec_blk,
        Block.setDmode_of_eq idle]
      rfl
    | cons y ys =>
      have rest := execAll_frameOps_skip (s := s.acceptDec.degenerateFrame .skip) run wf rfl ys g
      have back : (s.acceptDec.degenerateFrame .skip).blk.setDmode .idle = s.blk := Block.setDmode_of_eq idle
      rw [frameOps_cons, execAll_cons, exec_decByte_leaf_root run wf idle root, andThen_next, rest, back]
      rfl
  | false =>
    rw [Block.decompress_internal root]
    cases ys with
    | nil =>
      refine ⟨s.blk.cur, ?_⟩
      rw [frameOps_nil, execAll_singleton, exec_decEnd_empty run idle root, unpack_nil, Block.resultOfBits_nil, State.endFrame,
        List.length_nil, Nat.zero_add, List.drop_one, isTruncated, decide_eq_true rfl, Bool.or_true]
      rfl
    | cons y ys =>
      obtain ⟨c, walked⟩ := execAll_frameOps_walk (s := s.setBlk s.blk.startFrame) run wf rfl (y :: ys) g
      have loop := decodeBits_congr (k := s.blk) (l := s.blk.startFrame) rfl rfl rfl s.blk.root [] (unpack (y :: ys))
      rw [frameOps_cons, execAll_cons, exec_decByte_startFrame run idle root, ← execAll_cons, ← frameOps_cons, walked,
        ← Block.resultOfBits_congr loop]
      exact ⟨c, rfl⟩

end

/-- Settles O53: the decoder that was idle with DBUF empty is so again, with another CUR. -/
theorem frameYieldsItsOneResult : Obligations.FrameYieldsItsOneResult := by
  intro s ys g run idle empty root
  obtain ⟨c, frame⟩ := execAll_frameOps_idle run (s.blk.wfRoot_eq_true.mpr root) idle empty ys g
  refine ⟨c, ?_⟩
  rw [frame, State.endFrame, setWalk_of_idle idle empty]
  rfl

/-! ## The round trip -/

/-- A path goes on from internal nodes alone. -/
theorem descend_cons {k : Block} {i j : Idx} {b : Bool} {p : Bits} (reached : k.descend i (b :: p) = some j) :
    k.leaf i = false ∧ k.descend (k.child i b) p = some j := by
  cases leaf : k.leaf i with
  | true => simp [Block.descend, leaf] at reached
  | false => simpa [Block.descend, leaf] using reached

/-- A path to a leaf walked bit by bit. -/
theorem decodeBits_path {k : Block} {i j : Idx} {p : Bits} (reached : k.descend i p = some j) (leaf : k.leaf j = true)
    (nonempty : p ≠ []) (d : List Sym) (rest : Bits) :
    k.decodeBits i d (p ++ rest) = if k.sym j = k.sent then some d else k.decodeBits k.root (d ++ [k.sym j]) rest := by
  induction p generalizing i with
  | nil => exact absurd rfl nonempty
  | cons b p ih =>
    obtain ⟨-, below⟩ := descend_cons reached
    rw [List.cons_append]
    cases p with
    | nil =>
      obtain rfl := Option.some.inj below
      by_cases sentinel : k.sym (k.child i b) = k.sent
      · rw [decodeBits_sentinel leaf sentinel, if_pos sentinel]
      · rw [decodeBits_symbol leaf sentinel, if_neg sentinel, List.nil_append]
    | cons b' p =>
      obtain ⟨internal, -⟩ := descend_cons below
      rw [decodeBits_internal internal, ih below (List.cons_ne_nil b' p)]

/-- With an internal root each symbol of the trie has a code of at least one bit, which the loop decodes to it. -/
theorem decodeBits_code {k : Block} (consistent : Consistent k) (internal : k.leaf k.root = false) {c : Sym}
    (valid : k.valid c = true) (d : List Sym) (rest : Bits) :
    k.decodeBits k.root d (k.code c ++ rest) = if c = k.sent then some d else k.decodeBits k.root (d ++ [c]) rest := by
  obtain ⟨p, leafAt⟩ := (consistent.valid_iff c).mp valid
  rw [consistent.code_eq p c leafAt]
  obtain ⟨j, reached, leaf, rfl⟩ := leafAt
  refine decodeBits_path reached leaf (fun empty => ?_) d rest
  subst empty
  obtain rfl := Option.some.inj reached
  exact nomatch internal.symm.trans leaf

/-- The loop on the bits of a message gives the message back, whatever follows them. -/
theorem decodeBits_messageBits {k : Block} (consistent : Consistent k) (internal : k.leaf k.root = false) {m : List Sym}
    (entries : ∀ c ∈ m, k.valid c = true ∧ c ≠ k.sent) (d : List Sym) (rest : Bits) :
    k.decodeBits k.root d (k.messageBits m ++ rest) = some (d ++ m) := by
  induction m generalizing d with
  | nil =>
    have sentinel : k.valid k.sent = true := (consistent.valid_iff _).mpr consistent.trie.sentinel
    rw [Block.messageBits, List.flatMap_nil, List.nil_append, decodeBits_code consistent internal sentinel, if_pos rfl,
      List.append_nil]
  | cons c m ih =>
    obtain ⟨⟨valid, other⟩, entries⟩ := List.forall_mem_cons.mp entries
    have bits : k.messageBits (c :: m) ++ rest = k.code c ++ (k.messageBits m ++ rest) := by simp [Block.messageBits]
    rw [bits, decodeBits_code consistent internal valid, if_neg other, ih entries, List.append_assoc, List.singleton_append]

/-- With a leaf root the only path is the empty one. -/
theorem sym_root_of_leafAt {k : Block} (leaf : k.leaf k.root = true) {p : Bits} {c : Sym} (leafAt : k.LeafAt p c) :
    c = k.sym k.root := by
  obtain ⟨j, reached, -, rfl⟩ := leafAt
  cases p with
  | nil => exact congrArg k.sym (Option.some.inj reached).symm
  | cons b p => exact nomatch leaf.symm.trans (descend_cons reached).1

/-- A trie whose root is a leaf holds the sentinel alone. -/
theorem eq_sent_of_leaf_root {k : Block} (consistent : Consistent k) (leaf : k.leaf k.root = true) {c : Sym}
    (valid : k.valid c = true) : c = k.sent := by
  obtain ⟨p, leafAt⟩ := (consistent.valid_iff c).mp valid
  obtain ⟨q, sentinel⟩ := consistent.trie.sentinel
  exact (sym_root_of_leafAt leaf leafAt).trans (sym_root_of_leafAt leaf sentinel).symm

theorem wfRoot_of_consistent {k : Block} (consistent : Consistent k) : k.leaf k.root = false ∨ k.sym k.root = k.sent := by
  cases leaf : k.leaf k.root with
  | false => exact .inl rfl
  | true =>
    obtain ⟨q, sentinel⟩ := consistent.trie.sentinel
    exact .inr (sym_root_of_leafAt leaf sentinel).symm

section
variable {k : Block} (consistent : Consistent k) {m : List Sym} (entries : ∀ c ∈ m, k.valid c = true ∧ c ≠ k.sent)
include consistent entries

theorem compress_of_entries : k.compress m = successResult (pack (k.messageBits m)) := by
  have sentinel : k.valid k.sent = true := (consistent.valid_iff _).mpr consistent.trie.sentinel
  have none : (m.find? fun c => !k.valid c) = none := List.find?_eq_none.mpr fun c mem => by simp [(entries c mem).1]
  rw [Block.compress, none, if_pos sentinel]

theorem decompress_pack_messageBits : k.decompress (pack (k.messageBits m)) = successResult m := by
  cases root : k.leaf k.root with
  | true =>
    have nothing : m = [] := List.eq_nil_iff_forall_not_mem.mpr fun c mem =>
      (entries c mem).2 (eq_sent_of_leaf_root consistent root (entries c mem).1)
    rw [Block.decompress_leaf root, nothing]
    rfl
  | false =>
    have decoded := decodeBits_messageBits consistent root entries []
    rw [Block.decompress_internal root, unpack_pack, Block.resultOfBits_some (decoded _)]
    rfl

end

/-- The packed message presented to an idle decoder with these tables. -/
theorem execAll_frameOps_pack {s : State} {m : List Sym} (consistent : Consistent s.blk) (run : s.blk.mode = .run)
    (idle : s.blk.dmode = .idle) (empty : s.blk.dbuf = []) (entries : ∀ c ∈ m, s.blk.valid c = true ∧ c ≠ s.blk.sent)
    (g : BitVec 8) :
    ∃ u, execAll (frameOps (pack (s.blk.messageBits m)) g) s = .next u ∧ u.decOut = s.decOut ++ successResult m := by
  have wf := s.blk.wfRoot_eq_true.mpr (wfRoot_of_consistent consistent)
  obtain ⟨c, frame⟩ := execAll_frameOps_idle run wf idle empty (pack (s.blk.messageBits m)) g
  rw [decompress_pack_messageBits consistent entries] at frame
  exact ⟨_, frame, rfl⟩

/-- Settles O54: the message leaves the tables and the decoder alone, and the frame it makes is decoded by the trie whose paths are
the codes it was packed from. -/
theorem roundTripGivesTheMessageBack : Obligations.RoundTripGivesTheMessageBack := by
  intro s m g g' consistent run normal nb acc obuf idle empty entries
  have message := execAll_messageOps run normal m g
  rw [pendingBits_eq_nil nb obuf, ← Block.compress_eq_resultFrom, compress_of_entries consistent entries] at message
  have same : Consistent (s.endMessage (m.length + 1) (successResult (pack (s.blk.messageBits m))) (s.blk.misses m)).blk :=
    consistent_congr (k := s.blk) rfl rfl rfl rfl consistent
  obtain ⟨u, frame, out⟩ := execAll_frameOps_pack same run idle empty entries g'
  exact ⟨_, u, _, message, rfl, frame, out⟩

end Sys2Proof.Machine
end

section
/-! PROOFS. The two units do not interfere (`20_memory.md` section 3 (c)). -/

namespace Sys2Proof.Machine

/-! ### The encoder and the decoder's part -/

theorem isEnc_cases {i : Instr} (h : isEnc i = true) : (∃ c, i = .encSym c) ∨ ∃ g, i = .encEom g := by
  cases i with
  | encSym c => exact .inl ⟨c, rfl⟩
  | encEom g => exact .inr ⟨g, rfl⟩
  | _ => exact absurd h (by simp [isEnc, encode, tokenAgent])

theorem isDec_cases {i : Instr} (h : isDec i = true) : (∃ b, i = .decByte b) ∨ ∃ g, i = .decEnd g := by
  cases i with
  | decByte b => exact .inl ⟨b, rfl⟩
  | decEnd g => exact .inr ⟨g, rfl⟩
  | _ => exact absurd h (by simp [isDec, encode, tokenAgent])

theorem pushBits_withDec (k : Block) (d : DecPart) (c : Bits) : (k.withDec d).pushBits c = (k.pushBits c).withDec d := by
  induction c generalizing k with
  | nil => rfl
  | cons b c ih =>
    have bit : (k.withDec d).pushBit b = (k.pushBit b).withDec d := by
      simp only [Block.pushBit, apply_ite (Block.withDec · d)]
      rfl
    rw [pushBits_cons, pushBits_cons, bit, ih]

section
variable {s : State} (run : s.blk.mode = .run) (d : DecPart)
include run

theorem exec_encSym_withDec (c : Sym) :
    exec (.encSym c) (s.withDec d) = andThen (exec (.encSym c) s) fun t => .next (t.withDec d) := by
  cases emode : s.blk.emode with
  | drain => rw [exec_encSym_drain run emode, exec_encSym_drain (s := s.withDec d) run emode]; rfl
  | normal =>
    cases valid : s.blk.valid c with
    | false => rw [exec_encSym_unknown run emode valid, exec_encSym_unknown (s := s.withDec d) run emode valid]; rfl
    | true =>
      have code : (s.withDec d).blk.pushCode c = (s.blk.pushCode c).withDec d := pushBits_withDec s.blk d _
      rw [exec_encSym_valid run emode valid, exec_encSym_valid (s := s.withDec d) run emode valid, code]
      rfl

theorem exec_encEom_withDec (g : BitVec 8) :
    exec (.encEom g) (s.withDec d) = andThen (exec (.encEom g) s) fun t => .next (t.withDec d) := by
  cases emode : s.blk.emode with
  | drain => rw [exec_encEom_drain run emode, exec_encEom_drain (s := s.withDec d) run emode]; rfl
  | normal =>
    cases valid : s.blk.valid s.blk.sent with
    | false => rw [exec_encEom_unknown run emode valid, exec_encEom_unknown (s := s.withDec d) run emode valid]; rfl
    | true => rw [exec_encEom_valid run emode valid, exec_encEom_valid (s := s.withDec d) run emode valid]; rfl

end

/-- What the encoder does not own it neither reads nor writes. -/
theorem exec_enc_withDec {i : Instr} (enc : isEnc i = true) (s : State) (d : DecPart) :
    exec i (s.withDec d) = andThen (exec i s) fun t => .next (t.withDec d) := by
  cases mode : s.blk.mode with
  | config =>
    have held : (isEnc i || isDec i) = true := by rw [enc, Bool.true_or]
    rw [exec_held held mode, exec_held (s := s.withDec d) held mode]
    rfl
  | run =>
    obtain ⟨c, rfl⟩ | ⟨g, rfl⟩ := isEnc_cases enc
    · exact exec_encSym_withDec mode d c
    · exact exec_encEom_withDec mode d g

/-! ### The decoder and the encoder's part -/

/-! One equation per row of walk_bit (R202, R206). -/

theorem walkBit_not_walking {k : Block} (notWalk : k.dmode ≠ .walk) (b : Bool) : k.walkBit b = (k, []) := by
  obtain ⟨-, eq⟩ | ⟨walk, -⟩ | ⟨walk, -⟩ | ⟨walk, -⟩ := walkBit_cases k b
  · exact eq
  all_goals exact absurd walk notWalk

section
variable {k : Block} {b : Bool} (walk : k.dmode = .walk)
include walk

theorem walkBit_internal (internal : k.leaf (k.child k.cur b) = false) :
    k.walkBit b = (k.setWalk (k.child k.cur b) k.dbuf .walk, []) := by
  obtain ⟨other, -⟩ | ⟨-, -, eq⟩ | ⟨-, leaf, -⟩ | ⟨-, leaf, -⟩ := walkBit_cases k b
  · exact absurd walk other
  · exact eq
  · exact nomatch internal.symm.trans leaf
  · exact nomatch internal.symm.trans leaf

theorem walkBit_symbol (leaf : k.leaf (k.child k.cur b) = true) (other : k.sym (k.child k.cur b) ≠ k.sent) :
    k.walkBit b = (k.setWalk k.root (k.dbuf ++ [k.sym (k.child k.cur b)]) .walk, []) := by
  obtain ⟨notWalk, -⟩ | ⟨-, internal, -⟩ | ⟨-, -, -, eq⟩ | ⟨-, -, sentinel, -⟩ := walkBit_cases k b
  · exact absurd walk notWalk
  · exact nomatch internal.symm.trans leaf
  · exact eq
  · exact absurd sentinel other

theorem walkBit_sentinel (leaf : k.leaf (k.child k.cur b) = true) (sentinel : k.sym (k.child k.cur b) = k.sent) :
    k.walkBit b = (k.setWalk (k.child k.cur b) [] .skip, successResult k.dbuf) := by
  obtain ⟨notWalk, -⟩ | ⟨-, internal, -⟩ | ⟨-, -, other, -⟩ | ⟨-, -, -, eq⟩ := walkBit_cases k b
  · exact absurd walk notWalk
  · exact nomatch internal.symm.trans leaf
  · exact absurd sentinel other
  · exact eq

end

theorem walkBit_withEnc (k : Block) (e : EncPart) (b : Bool) :
    (k.withEnc e).walkBit b = ((k.walkBit b).1.withEnc e, (k.walkBit b).2) := by
  obtain ⟨notWalk, eq⟩ | ⟨walk, internal, eq⟩ | ⟨walk, leaf, other, eq⟩ | ⟨walk, leaf, sentinel, eq⟩ :=
    walkBit_cases k b <;> rw [eq]
  · exact walkBit_not_walking (k := k.withEnc e) notWalk b
  · exact walkBit_internal (k := k.withEnc e) walk internal
  · exact walkBit_symbol (k := k.withEnc e) walk leaf other
  · exact walkBit_sentinel (k := k.withEnc e) walk leaf sentinel

theorem walkBits_withEnc (k : Block) (e : EncPart) (bs : Bits) :
    (k.withEnc e).walkBits bs = ((k.walkBits bs).1.withEnc e, (k.walkBits bs).2) := by
  induction bs generalizing k with
  | nil => rfl
  | cons b bs ih => rw [walkBits_cons, walkBits_cons, walkBit_withEnc, ih]

section
variable {s : State} (run : s.blk.mode = .run) (wf : s.blk.wfRoot = true) (e : EncPart)
include run wf

theorem exec_decByte_withEnc (b : Byte) :
    exec (.decByte b) (s.withEnc e) = andThen (exec (.decByte b) s) fun t => .next (t.withEnc e) := by
  cases dmode : s.blk.dmode with
  | skip => rw [exec_decByte_skip run wf dmode, exec_decByte_skip (s := s.withEnc e) run wf dmode]; rfl
  | walk =>
    have walked : (s.withEnc e).blk.walkBits (unpack [b]) = _ := walkBits_withEnc s.blk e _
    rw [exec_decByte_walk run wf dmode, exec_decByte_walk (s := s.withEnc e) run wf dmode, walked]
    rfl
  | idle =>
    cases root : s.blk.leaf s.blk.root with
    | true => rw [exec_decByte_leaf_root run wf dmode root, exec_decByte_leaf_root (s := s.withEnc e) run wf dmode root]; rfl
    | false =>
      have walked : (s.withEnc e).blk.startFrame.walkBits (unpack [b]) = _ := walkBits_withEnc s.blk.startFrame e _
      rw [exec_decByte_start run dmode root, exec_decByte_start (s := s.withEnc e) run dmode root, walked]
      rfl

theorem exec_decEnd_withEnc (g : BitVec 8) :
    exec (.decEnd g) (s.withEnc e) = andThen (exec (.decEnd g) s) fun t => .next (t.withEnc e) := by
  cases dmode : s.blk.dmode with
  | skip => rw [exec_decEnd_skip run wf dmode, exec_decEnd_skip (s := s.withEnc e) run wf dmode]; rfl
  | walk => rw [exec_decEnd_walk run wf dmode, exec_decEnd_walk (s := s.withEnc e) run wf dmode]; rfl
  | idle =>
    cases root : s.blk.leaf s.blk.root with
    | true => rw [exec_decEnd_leaf_root run wf dmode root, exec_decEnd_leaf_root (s := s.withEnc e) run wf dmode root]; rfl
    | false => rw [exec_decEnd_empty run dmode root, exec_decEnd_empty (s := s.withEnc e) run dmode root]; rfl

end

/-- What the decoder does not own it neither reads nor writes, a refusal included. -/
theorem exec_dec_withEnc {j : Instr} (dec : isDec j = true) (s : State) (e : EncPart) :
    exec j (s.withEnc e) = andThen (exec j s) fun t => .next (t.withEnc e) := by
  cases mode : s.blk.mode with
  | config =>
    have held : (isEnc j || isDec j) = true := by rw [dec, Bool.or_true]
    rw [exec_held held mode, exec_held (s := s.withEnc e) held mode]
    rfl
  | run =>
    cases wf : s.blk.wfRoot with
    | true =>
      obtain ⟨b, rfl⟩ | ⟨g, rfl⟩ := isDec_cases dec
      · exact exec_decByte_withEnc mode wf e b
      · exact exec_decEnd_withEnc mode wf e g
    | false =>
      obtain ⟨b, rfl⟩ | ⟨g, rfl⟩ := isDec_cases dec
      · rw [exec_decByte_not_wfRoot mode wf, exec_decByte_not_wfRoot (s := s.withEnc e) mode wf]; rfl
      · rw [exec_decEnd_not_wfRoot mode wf, exec_decEnd_not_wfRoot (s := s.withEnc e) mode wf]; rfl

/-! ### Either order -/

/-- An encoder operation always completes. -/
theorem exec_enc_completes {i : Instr} (enc : isEnc i = true) (s : State) : ∃ t, exec i s = .next t := by
  cases mode : s.blk.mode with
  | config => exact ⟨s, exec_held (by rw [enc, Bool.true_or]) mode⟩
  | run =>
    obtain ⟨c, rfl⟩ | ⟨g, rfl⟩ := isEnc_cases enc
    · obtain ⟨t, accepts, -⟩ := exec_encSym_accepts mode c
      exact ⟨t, accepts⟩
    · obtain ⟨t, accepts, -⟩ := exec_encEom_accepts mode g
      exact ⟨t, accepts⟩

/-- Settles O55: each unit writes its own part and depends on no other, so either order writes both parts. -/
theorem encoderAndDecoderStepsCommute : Obligations.EncoderAndDecoderStepsCommute := by
  intro s i j enc dec
  obtain ⟨t, encStep⟩ := exec_enc_completes enc s
  have encFrame : t = s.withEnc t.encPart := (encoderFrame s t i (isEnc_cases enc) encStep).1
  have afterEnc : andThen (exec i s) (exec j) = andThen (exec j s) fun u => .next (u.withEnc t.encPart) := by
    rw [encStep, andThen_next, ← exec_dec_withEnc dec, ← encFrame]
  rw [afterEnc]
  cases decStep : exec j s with
  | fault e => exact nomatch e
  | refused e => rfl
  | next u =>
    have decFrame : u = s.withDec u.decPart := (decoderFrame s u j (isDec_cases dec) decStep).1
    calc Host.Outcome.next (u.withEnc t.encPart)
        = .next ((s.withDec u.decPart).withEnc t.encPart) := by rw [← decFrame]
      _ = .next ((s.withEnc t.encPart).withDec u.decPart) := by rw [State.withEnc_withDec]
      _ = .next (t.withDec u.decPart) := by rw [← encFrame]
      _ = exec i (s.withDec u.decPart) := by rw [exec_enc_withDec enc, encStep, andThen_next]
      _ = exec i u := by rw [← decFrame]

end Sys2Proof.Machine
end

section
/-! PROOFS. The trie construction (`40_table_construction.md` sections 4 and 5): what every merge keeps of the forest, and the codes
of a trie. -/

namespace Sys2Proof.Machine

/-! ## The priority collection -/

theorem insertNode_perm (t : Trie) (us : List Trie) : (insertNode t us).Perm (t :: us) := by
  induction us with
  | nil => exact .refl _
  | cons u us ih =>
    rw [insertNode]
    split
    · exact .refl _
    · exact (ih.cons u).trans (.swap t u us)

theorem foldr_insertNode_perm (ts : List Trie) : (ts.foldr insertNode []).Perm ts := by
  induction ts with
  | nil => exact .refl _
  | cons t ts ih => exact (insertNode_perm t _).trans (ih.cons t)

/-! ## The forest of a histogram -/

/-- What seeding establishes and every merge keeps: the forest `ts`, its next internal node `i`, and the histogram it is built
from. -/
structure ForestOf (h : Histogram) (i : Nat) (ts : List Trie) : Prop where
  /-- One leaf per entry. -/
  leaves : (ts.flatMap Trie.leaves).Perm h
  weight : (ts.map Trie.weight).sum = (h.map Prod.snd).sum
  idx : ∀ t ∈ ts, t.idx < i
  /-- Each merge uses one index and leaves one tree less. -/
  count : i + ts.length = 2 * h.length

section
variable {h : Histogram} {i : Nat} {ts us : List Trie}

/-- The order of the collection plays no part. -/
theorem ForestOf.perm (forest : ForestOf h i ts) (perm : us.Perm ts) : ForestOf h i us where
  leaves := (perm.flatMap_right Trie.leaves).trans forest.leaves
  weight := (perm.map Trie.weight).sum_eq.trans forest.weight
  idx := fun t mem => forest.idx t (perm.mem_iff.mp mem)
  count := perm.length_eq ▸ forest.count

/-- A merge puts the leaves of two trees side by side and adds their weights (R135). -/
theorem ForestOf.merge {x y : Trie} {rest : List Trie} (forest : ForestOf h i (x :: y :: rest)) :
    ForestOf h (i + 1) (insertNode (.node i (x.weight + y.weight) x y) rest) := by
  refine ForestOf.perm ?_ (insertNode_perm _ rest)
  obtain ⟨leaves, weight, idx, count⟩ := forest
  refine ⟨?leaves, ?weight, fun t mem => ?idx, ?count⟩
  case leaves => simpa [Trie.leaves] using leaves
  case weight => simpa [Trie.weight, Nat.add_assoc] using weight
  case idx =>
    rcases List.mem_cons.mp mem with rfl | old
    · exact i.lt_succ_self
    · exact (idx t (.tail _ (.tail _ old))).trans i.lt_succ_self
  case count =>
    simp only [List.length_cons] at count ⊢
    omega

theorem forestOf_seedFrom (h : Histogram) (i : Nat) :
    (seedFrom i h).flatMap Trie.leaves = h ∧ (seedFrom i h).map Trie.weight = h.map Prod.snd ∧
    (∀ t ∈ seedFrom i h, t.idx < i + h.length) ∧ (seedFrom i h).length = h.length := by
  induction h generalizing i with
  | nil => exact ⟨rfl, rfl, nofun, rfl⟩
  | cons e h ih =>
    obtain ⟨leaves, weight, idx, length⟩ := ih (i + 1)
    refine ⟨?leaves, ?weight, fun t mem => ?idx, congrArg (· + 1) length⟩
    case leaves => simp [seedFrom, Trie.leaves, leaves]
    case weight => simp [seedFrom, Trie.weight, weight]
    case idx =>
      rw [List.length_cons]
      rcases List.mem_cons.mp mem with rfl | later
      · rw [Trie.idx]; omega
      · have lt := idx t later
        omega

theorem forestOf_seed (h : Histogram) : ForestOf h h.length ((seedFrom 0 h).foldr insertNode []) := by
  obtain ⟨leaves, weight, idx, length⟩ := forestOf_seedFrom h 0
  refine ForestOf.perm ⟨.of_eq leaves, congrArg List.sum weight, ?_, ?_⟩ (foldr_insertNode_perm _)
  · simpa using idx
  · rw [length]; omega

/-- With fuel for every merge the loop ends in one trie (R138). -/
theorem ForestOf.mergeLoop {fuel : Nat} (forest : ForestOf h i ts) (nonempty : ts ≠ []) (enough : ts.length ≤ fuel + 1) :
    ∃ j t, mergeLoop fuel i ts = [t] ∧ ForestOf h j [t] := by
  induction fuel generalizing i ts with
  | zero =>
    obtain ⟨t, rfl⟩ := List.length_eq_one_iff.mp (le_antisymm enough (List.length_pos_iff.mpr nonempty))
    exact ⟨i, t, rfl, forest⟩
  | succ fuel ih =>
    match ts with
    | [] => exact absurd rfl nonempty
    | [t] => exact ⟨i, t, rfl, forest⟩
    | x :: y :: rest =>
      have length := (insertNode_perm (.node i (x.weight + y.weight) x y) rest).length_eq
      rw [List.length_cons] at length enough
      refine ih forest.merge (List.ne_nil_of_length_eq_add_one length) ?_
      rw [length]
      exact Nat.le_of_succ_le_succ enough

theorem buildTrie_forest (nonempty : h ≠ []) : ∃ j t, buildTrie h = some t ∧ ForestOf h j [t] := by
  have seed := forestOf_seed h
  have entries := List.length_pos_iff.mpr nonempty
  have count := seed.count
  obtain ⟨j, t, eq, forest⟩ := seed.mergeLoop (fuel := h.length - 1) (List.length_pos_iff.mp (by omega)) (by omega)
  exact ⟨j, t, by rw [buildTrie, eq, List.head?_cons], forest⟩

end

theorem histogram_ne_nil (corpus : List Sym) (sentinel : Sym) : histogram corpus sentinel ≠ [] := by
  have mem := (mem_symbols_histogram corpus sentinel sentinel).mpr (.inl rfl)
  intro nil
  rw [nil] at mem
  exact nomatch mem

/-- A symbol has one entry, and there are 256 symbols. -/
theorem histogram_length_le (corpus : List Sym) (sentinel : Sym) : (histogram corpus sentinel).length ≤ 256 := by
  have nodup : ((histogram corpus sentinel).map fun e => e.1.toNat).Nodup :=
    List.pairwise_map.mpr ((ascending_histogram corpus sentinel).imp ne_of_lt)
  have below : ((histogram corpus sentinel).map fun e => e.1.toNat) ⊆ List.range 256 := by
    intro n mem
    obtain ⟨e, -, rfl⟩ := List.mem_map.mp mem
    exact List.mem_range.mpr e.1.isLt
  simpa using (nodup.subperm below).length_le

/-- Settles O58: the forest that the loop ends in is one trie. -/
theorem trieHasOneLeafPerEntryAndTheirWeight : Obligations.TrieHasOneLeafPerEntryAndTheirWeight := by
  intro corpus sentinel
  obtain ⟨j, t, built, forest⟩ := buildTrie_forest (histogram_ne_nil corpus sentinel)
  exact ⟨t, built, by simpa using forest.leaves, by simpa using forest.weight⟩

/-! ## Codes -/

/-- The codes of an internal node are those of its children with the bit that leads there in front (R140). -/
theorem mem_codes_node {i w : Nat} {z o : Trie} {e : Sym × Bits} (mem : e ∈ (Trie.node i w z o).codes) :
    ∃ (b : Bool) (p : Bits), e.2 = b :: p ∧ (e.1, p) ∈ (if b then o else z).codes := by
  simp only [Trie.codes, List.mem_append, List.mem_map] at mem
  obtain ⟨⟨c, p⟩, mem, rfl⟩ | ⟨⟨c, p⟩, mem, rfl⟩ := mem
  · exact ⟨false, p, rfl, mem⟩
  · exact ⟨true, p, rfl, mem⟩

/-- Settles O59, by induction on the trie: below an internal node two codes part at their first bit or are codes of one child. -/
theorem constructedCodesArePrefixFree : Obligations.ConstructedCodesArePrefixFree := by
  intro t
  induction t with
  | leaf i c w =>
    intro e f he hf ne
    rw [List.mem_singleton.mp he, List.mem_singleton.mp hf] at ne
    exact absurd rfl ne
  | node i w z o ihz iho =>
    intro e f he hf ne pre
    obtain ⟨b, p, codeE, memE⟩ := mem_codes_node he
    obtain ⟨b', q, codeF, memF⟩ := mem_codes_node hf
    rw [codeE, codeF, List.cons_prefix_cons] at pre
    obtain ⟨rfl, pre⟩ := pre
    cases b with
    | false => exact ihz _ _ memE memF ne pre
    | true => exact iho _ _ memE memF ne pre

theorem Trie.leaves_length_pos (t : Trie) : 0 < t.leaves.length := by
  induction t with
  | leaf i c w => exact Nat.one_pos
  | node i w z o ihz iho => rw [leaves, List.length_append]; omega

/-- Each bit of a code leaves at least one leaf on the other side. -/
theorem Trie.code_length_lt (t : Trie) : ∀ e ∈ t.codes, e.2.length < t.leaves.length := by
  induction t with
  | leaf i c w =>
    intro e mem
    rw [List.mem_singleton.mp mem]
    exact Nat.one_pos
  | node i w z o ihz iho =>
    intro e mem
    obtain ⟨b, p, code, mem⟩ := mem_codes_node mem
    have zero := z.leaves_length_pos
    have one := o.leaves_length_pos
    rw [code, leaves, List.length_append, List.length_cons]
    cases b with
    | false =>
      have lt : p.length < z.leaves.length := ihz _ mem
      omega
    | true =>
      have lt : p.length < o.leaves.length := iho _ mem
      omega

/-- Settles O60: at most 256 leaves take the indices up to 255 and their merges at most 255 more; a code is shorter than the number
of leaves. -/
theorem constructedTrieFitsTheTables : Obligations.ConstructedTrieFitsTheTables := by
  intro corpus sentinel t built
  obtain ⟨j, t', built', forest⟩ := buildTrie_forest (histogram_ne_nil corpus sentinel)
  obtain rfl : t = t' := Option.some.inj (built.symm.trans built')
  have entries := histogram_length_le corpus sentinel
  have leaves : t.leaves.length = (histogram corpus sentinel).length := by simpa using forest.leaves.length_eq
  have idx := forest.idx t (List.mem_singleton.mpr rfl)
  have count := forest.count
  rw [List.length_singleton] at count
  refine ⟨by omega, by omega, fun e mem => ?_⟩
  have code := t.code_length_lt e mem
  omega

end Sys2Proof.Machine
end
